-- ==== Sys2Proof/Word.lean ====
section
/-!
DEFINITION. The word types of hash_engine (00_scope R8, R10): bytes, 32-bit words and 64-bit words, all
unsigned. Every operation on them that a rule of the spec describes stands in Machine/Operands.lean.
-/

namespace Sys2Proof

/-- A byte: an 8-bit unsigned value (R10). -/
abbrev Byte := BitVec 8

/-- A 32-bit word, `u32` (R8). -/
abbrev Word32 := BitVec 32

/-- A 64-bit word, `u64` (R8). -/
abbrev Word64 := BitVec 64

end Sys2Proof
end

