-- ==== Sys2Proof/Config.lean ====
section
/-!
DEFINITION. What an implementation of hash_engine fixes (00_scope R7), and the free values of the one case
the spec leaves unspecified (60_exceptions R377). A free value is an opaque constant with no body: nothing
can be proved about which value it is.
-/

namespace Sys2Proof.Config

/-- `P_MAX_MSG_BYTES`, the longest message accepted, in bytes (R7). -/
def maxMsgBytes : Nat := 2 ^ 61 - 1

/-- `P_ADD_MAX`, the most bytes one ADD carries (R7, R86): the largest value of its 24-bit field. -/
def addMax : Nat := 2 ^ 24 - 1

/-- `P_NATIVE64`: whether the 64-bit units use native arithmetic (true) or `word64_alu` (false). R7 allows
either and R340 says that no observable behaviour depends on it. DEDUCED, notes/assumptions/10.md: safe. -/
def native64 : Bool := true

/-- H[i] after the n-th E_UNIT_RESERVED failure: unspecified (R377). Free value, notes/assumptions/6.md. -/
opaque freeH : Nat → Nat → Word64

/-- COUNT after the n-th E_UNIT_RESERVED failure: unspecified (R377). Free value, notes/assumptions/6.md. -/
opaque freeCount : Nat → Word64

/-- PBUF[i] after the n-th E_UNIT_RESERVED failure: unspecified (R377). Free value, notes/assumptions/6.md. -/
opaque freePbuf : Nat → Nat → Byte

/-- PLEN after the n-th E_UNIT_RESERVED failure: unspecified (R377). Free value, notes/assumptions/6.md. -/
opaque freePlen : Nat → BitVec 8

/-- DIG[i] after the n-th E_UNIT_RESERVED failure: unspecified (R377). Free value, notes/assumptions/6.md. -/
opaque freeDig : Nat → Nat → Byte

end Sys2Proof.Config
end

