-- ==== Sys2Proof/Syntax.lean ====
section
/-!
DEFINITION. The instructions of hash_engine: one constructor per row of spec/opcode_table.json. Six host
commands (30_encoding R83) and the twenty internal operations the sequencer selects (R91 to R94): three
padding schemes, ten compression units and seven word64_alu operations. Operand fields keep the width and
the bits the encoding gives them (R88); ADD's payload travels in its transaction, not in the instruction.
-/

namespace Sys2Proof

/-- One operation of the opcode table. -/
inductive Instr where
  /-- STAT: read the status word (R127). -/
  | stat
  /-- INIT: ALGID, NNREQ and VAR (R84, R120). -/
  | init (algid : BitVec 8) (nnreq : BitVec 7) (var : BitVec 1)
  /-- ADD: N, the payload length (R86, R122). -/
  | add (n : BitVec 24)
  /-- FINISH (R124). -/
  | finish
  /-- TOBIN (R125). -/
  | tobin
  /-- TOHEX (R126). -/
  | tohex
  /-- PAD_MD_LE (R160). -/
  | padMdLe
  /-- PAD_MD_BE (R161). -/
  | padMdBe
  /-- PAD_BLAKE (R162). -/
  | padBlake
  /-- MD5_COMPRESS (R198). -/
  | md5Compress
  /-- RMD128_COMPRESS (R222). -/
  | rmd128Compress
  /-- RMD160_COMPRESS (R223). -/
  | rmd160Compress
  /-- RMD256_COMPRESS (R224). -/
  | rmd256Compress
  /-- RMD320_COMPRESS (R225). -/
  | rmd320Compress
  /-- SHA1_COMPRESS (R254). -/
  | sha1Compress
  /-- SHA256_COMPRESS (R278). -/
  | sha256Compress
  /-- SHA512_COMPRESS (R288). -/
  | sha512Compress
  /-- BLAKE2S_COMPRESS (R316). -/
  | blake2sCompress
  /-- BLAKE2B_COMPRESS (R317). -/
  | blake2bCompress
  /-- W64_NOT (R342). -/
  | w64Not
  /-- W64_AND (R343). -/
  | w64And
  /-- W64_OR (R344). -/
  | w64Or
  /-- W64_XOR (R345). -/
  | w64Xor
  /-- W64_ADD (R346). -/
  | w64Add
  /-- W64_ROTR by AMT (R347). -/
  | w64Rotr (amt : BitVec 7)
  /-- W64_SHR by AMT (R348). -/
  | w64Shr (amt : BitVec 7)
  deriving DecidableEq, Repr

/-- Whether the operation is one of the six the host can issue (R83); the other twenty are internal (R91). -/
def Instr.isHostCommand : Instr → Bool
  | .stat | .init _ _ _ | .add _ | .finish | .tobin | .tohex => true
  | .padMdLe | .padMdBe | .padBlake => false
  | .md5Compress | .rmd128Compress | .rmd160Compress | .rmd256Compress | .rmd320Compress => false
  | .sha1Compress | .sha256Compress | .sha512Compress | .blake2sCompress | .blake2bCompress => false
  | .w64Not | .w64And | .w64Or | .w64Xor | .w64Add | .w64Rotr _ | .w64Shr _ => false

end Sys2Proof
end

