-- ==== Sys2Proof/Decode.lean ====
section
/-!
DEFINITION. Decoding and encoding (30_encoding). A host command is one 32-bit command word (R81, R90); an
internal operation is one selector: PADSEL, CSEL or W64CTL (R91). Decoding is total: every word and every
selector gives an instruction or the name of the reason it has none (R89, R92 to R94).
-/

namespace Sys2Proof

/-- An internal selector the sequencer drives into a unit (R91). -/
inductive Selector where
  /-- PADSEL, 2 bits (R92). -/
  | padsel (v : BitVec 2)
  /-- CSEL, 4 bits (R93). -/
  | csel (v : BitVec 4)
  /-- W64CTL, 10 bits: W64OP in [9:7], AMT in [6:0] (R94). -/
  | w64ctl (v : BitVec 10)
  deriving DecidableEq, Repr

/-- An encoded operation: a host command word or an internal selector. -/
inductive Encoding where
  /-- A HOSTCMD word (R81). -/
  | command (cw : BitVec 32)
  /-- An internal selector (R91). -/
  | selector (s : Selector)
  deriving DecidableEq, Repr

/-- Why an encoding has no instruction. The first two are E_ILLEGAL_CMD (R89); the others raise
E_UNIT_RESERVED (R92 to R94, 47_word64_alu R349). -/
inductive DecodeError where
  /-- OP in 0x6..0xF (R83). -/
  | illegalOp
  /-- a reserved operand bit is 1 (R84, R86, R87). -/
  | reservedBits
  /-- PADSEL = 3 (R92). -/
  | reservedPadsel
  /-- CSEL in 0xA..0xF (R93). -/
  | reservedCsel
  /-- W64OP = 7 (R94). -/
  | reservedW64op
  /-- AMT not 0 for W64OP 0 to 4 (R94). -/
  | reservedAmt
  deriving DecidableEq, Repr

/-- OP = CW[31:28] (R81). -/
def opField (cw : BitVec 32) : BitVec 4 := cw.extractLsb' 28 4

/-- The operation if the reserved operand bits are all 0 (R89). -/
def ifReservedZero (reservedZero : Bool) (i : Instr) : Except DecodeError Instr :=
  if reservedZero then .ok i else .error .reservedBits

/-- Decode a host command word (R83 to R87, R89). -/
def decodeCommand (cw : BitVec 32) : Except DecodeError Instr :=
  let operand := cw.extractLsb' 0 28
  match (opField cw).toNat with
  | 0 => ifReservedZero (operand == 0) .stat
  | 1 => ifReservedZero (cw.extractLsb' 16 12 == 0)
      (.init (cw.extractLsb' 0 8) (cw.extractLsb' 8 7) (cw.extractLsb' 15 1))
  | 2 => ifReservedZero (cw.extractLsb' 24 4 == 0) (.add (cw.extractLsb' 0 24))
  | 3 => ifReservedZero (operand == 0) .finish
  | 4 => ifReservedZero (operand == 0) .tobin
  | 5 => ifReservedZero (operand == 0) .tohex
  | _ => .error .illegalOp

/-- Decode PADSEL (R92). -/
def decodePadsel (v : BitVec 2) : Except DecodeError Instr :=
  match v.toNat with
  | 0 => .ok .padMdLe
  | 1 => .ok .padMdBe
  | 2 => .ok .padBlake
  | _ => .error .reservedPadsel

/-- Decode CSEL (R93). -/
def decodeCsel (v : BitVec 4) : Except DecodeError Instr :=
  match v.toNat with
  | 0 => .ok .md5Compress
  | 1 => .ok .rmd128Compress
  | 2 => .ok .rmd160Compress
  | 3 => .ok .rmd256Compress
  | 4 => .ok .rmd320Compress
  | 5 => .ok .sha1Compress
  | 6 => .ok .sha256Compress
  | 7 => .ok .sha512Compress
  | 8 => .ok .blake2sCompress
  | 9 => .ok .blake2bCompress
  | _ => .error .reservedCsel

/-- The operation if AMT is 0, as W64OP 0 to 4 require (R94). -/
def ifAmtZero (amt : BitVec 7) (i : Instr) : Except DecodeError Instr :=
  if amt = 0 then .ok i else .error .reservedAmt

/-- Decode W64CTL (R94). A rotate or shift keeps its AMT whatever it is: the operation itself raises
E_UNIT_RESERVED for a reserved amount (R349). -/
def decodeW64ctl (v : BitVec 10) : Except DecodeError Instr :=
  let amt := v.extractLsb' 0 7
  match (v.extractLsb' 7 3).toNat with
  | 0 => ifAmtZero amt .w64Not
  | 1 => ifAmtZero amt .w64And
  | 2 => ifAmtZero amt .w64Or
  | 3 => ifAmtZero amt .w64Xor
  | 4 => ifAmtZero amt .w64Add
  | 5 => .ok (.w64Rotr amt)
  | 6 => .ok (.w64Shr amt)
  | _ => .error .reservedW64op

/-- Decode an internal selector (R91 to R94). -/
def decodeSelector : Selector → Except DecodeError Instr
  | .padsel v => decodePadsel v
  | .csel v => decodeCsel v
  | .w64ctl v => decodeW64ctl v

/-- Decode any encoded operation. -/
def decode : Encoding → Except DecodeError Instr
  | .command cw => decodeCommand cw
  | .selector s => decodeSelector s

/-! ## Encoding -/

/-- A command word of opcode `op` and operand `operand` (R81). -/
def commandWord (op : BitVec 4) (operand : BitVec 28) : Encoding := .command (op ++ operand)

/-- A W64CTL of operation `op` and amount `amt` (R94). -/
def w64Word (op : BitVec 3) (amt : BitVec 7) : Encoding := .selector (.w64ctl (op ++ amt))

/-- The encoding of an operation (R83 to R87, R92 to R94). -/
def encode : Instr → Encoding
  | .stat => commandWord 0x0 0
  | .init algid nnreq var => commandWord 0x1 (0#12 ++ var ++ nnreq ++ algid)
  | .add n => commandWord 0x2 (0#4 ++ n)
  | .finish => commandWord 0x3 0
  | .tobin => commandWord 0x4 0
  | .tohex => commandWord 0x5 0
  | .padMdLe => .selector (.padsel 0)
  | .padMdBe => .selector (.padsel 1)
  | .padBlake => .selector (.padsel 2)
  | .md5Compress => .selector (.csel 0x0)
  | .rmd128Compress => .selector (.csel 0x1)
  | .rmd160Compress => .selector (.csel 0x2)
  | .rmd256Compress => .selector (.csel 0x3)
  | .rmd320Compress => .selector (.csel 0x4)
  | .sha1Compress => .selector (.csel 0x5)
  | .sha256Compress => .selector (.csel 0x6)
  | .sha512Compress => .selector (.csel 0x7)
  | .blake2sCompress => .selector (.csel 0x8)
  | .blake2bCompress => .selector (.csel 0x9)
  | .w64Not => w64Word 0 0
  | .w64And => w64Word 1 0
  | .w64Or => w64Word 2 0
  | .w64Xor => w64Word 3 0
  | .w64Add => w64Word 4 0
  | .w64Rotr amt => w64Word 5 amt
  | .w64Shr amt => w64Word 6 amt

/-! ## The opcode table's numbering -/

/-- The encoded operation a row of spec/opcode_table.json means by a word of `nbits` bits. The table's four
formats have 2, 4, 10 and 32 bits (R81, R91); counted in whole bytes, PADSEL and CSEL are both 8 bits wide.
An 8-bit word is read as CSEL, a word of at most 2 bits as PADSEL. DESIGN CHOICE,
notes/assumptions/4.md. A word that does not fit its format has no encoding. -/
def tableEncoding (nbits w : Nat) : Option Encoding :=
  if nbits ≤ 2 then (if w < 2 ^ 2 then some (.selector (.padsel (BitVec.ofNat 2 w))) else none)
  else if nbits ≤ 8 then (if w < 2 ^ 4 then some (.selector (.csel (BitVec.ofNat 4 w))) else none)
  else if nbits ≤ 16 then (if w < 2 ^ 10 then some (.selector (.w64ctl (BitVec.ofNat 10 w))) else none)
  else if w < 2 ^ 32 then some (.command (BitVec.ofNat 32 w)) else none

/-- The instruction the decoder reads from a table word (30_encoding; the numbering of opcode_table.json). -/
def decodeTableWord (nbits w : Nat) : Option Instr :=
  match tableEncoding nbits w with
  | some e => (decode e).toOption
  | none => none

end Sys2Proof
end

