-- ==== Sys2Proof/Machine/Operands.lean ====
section
/-!
DEFINITION. Operand forms: the word operations of 00_scope R9, the byte sequences of R10, block decoding and
serialization (20_memory R63, R64), the state registers read and written at the selected width (10_state
R24), and hexadecimal digits (40_engine R126).
-/

namespace Sys2Proof.Machine

/-- The ten 64-bit state registers H[0..9] (10_state R24). -/
abbrev HRegs := Vector Word64 10

/-- The table of `f` at 0 .. n-1. -/
def tab {α : Type} (n : Nat) (f : Nat → α) : Vector α n :=
  ⟨((List.range n).map f).toArray, by simp⟩

/-- `rotr_w(a, n) = shr_w(a, n) | shl_w(a, w - n)` for 0 <= n < w (R9). -/
def rotr {w : Nat} (a : BitVec w) (n : Nat) : BitVec w := (a >>> n) ||| (a <<< (w - n))

/-- `rotl_w(a, n) = shl_w(a, n) | shr_w(a, w - n)` for 0 <= n < w (R9). -/
def rotl {w : Nat} (a : BitVec w) (n : Nat) : BitVec w := (a <<< n) ||| (a >>> (w - n))

/-- The number a byte sequence encodes, least significant byte first (R10). -/
def leNat : List Byte → Nat
  | [] => 0
  | b :: bs => b.toNat + 256 * leNat bs

/-- `bytes_le(x, n)`: the n-byte little-endian encoding of x, for `x < 2^(8n)` (R10). R10 leaves a larger x
undefined: its low 8n bits are kept. DESIGN CHOICE, notes/assumptions/19.md. -/
def bytesLe (x : Nat) : Nat → List Byte
  | 0 => []
  | n + 1 => BitVec.ofNat 8 x :: bytesLe (x / 256) n

/-- `bytes_be(x, n)`: the n-byte big-endian encoding of x, for `x < 2^(8n)` (R10). A larger x is cut as in
`bytesLe`: DESIGN CHOICE, notes/assumptions/19.md. -/
def bytesBe (x n : Nat) : List Byte := (bytesLe x n).reverse

/-- `zeros(n)` (R10). -/
def zeros (n : Nat) : List Byte := List.replicate n 0

/-- Byte order of an algorithm's words (10_state R36, column E). -/
inductive Endian where
  | little
  | big
  deriving DecidableEq, Repr

/-- The word widths of the block (10_state R36, column W). -/
inductive WordWidth where
  | w32
  | w64
  deriving DecidableEq, Repr

/-- W, the width in bits. -/
def WordWidth.bits : WordWidth → Nat
  | .w32 => 32
  | .w64 => 64

/-- The block sizes of the block (10_state R36, column BS). -/
inductive BlockSize where
  | b64
  | b128
  deriving DecidableEq, Repr

/-- BS, the block size in bytes. -/
def BlockSize.bytes : BlockSize → Nat
  | .b64 => 64
  | .b128 => 128

/-- `le_w(b, i)` (R10). -/
def leWord (w : Nat) (b : List Byte) (i : Nat) : BitVec w :=
  BitVec.ofNat w (leNat ((b.drop i).take (w / 8)))

/-- `be_w(b, i)` (R10). -/
def beWord (w : Nat) (b : List Byte) (i : Nat) : BitVec w :=
  BitVec.ofNat w (leNat ((b.drop i).take (w / 8)).reverse)

/-- One word of a block in the algorithm's byte order (R63). -/
def endianWord (e : Endian) (w : Nat) (b : List Byte) (i : Nat) : BitVec w :=
  match e with
  | .little => leWord w b i
  | .big => beWord w b i

/-- Block decoding: the 16 words X[j] of a block (R63). -/
def blockWords (e : Endian) (w : Nat) (blk : List Byte) : Vector (BitVec w) 16 :=
  tab 16 fun j => endianWord e w blk (j * (w / 8))

/-- `bytes_E(x, n)` of R64. -/
def endianBytes (e : Endian) (x n : Nat) : List Byte :=
  match e with
  | .little => bytesLe x n
  | .big => bytesBe x n

/-- H[i], for i in 0..9. -/
def hReg (h : HRegs) (i : Nat) : Word64 := h.toList.getD i 0

/-- `H[0..n)[w-1:0]`: the state words a compression unit takes (30_encoding R95). -/
def readWords (w n : Nat) (h : HRegs) : Vector (BitVec w) n :=
  tab n fun i => (hReg h i).setWidth w

/-- `H[0..n) <- v`, each word zero-extended to 64 bits; the other registers keep their values
(40_engine R123, 10_state R24). -/
def writeWords {w n : Nat} (h : HRegs) (v : Vector (BitVec w) n) : HRegs :=
  tab 10 fun i => if i < n then (v.toList.getD i 0).setWidth 64 else hReg h i

/-- `SERIALIZE(H)` (R64): the first `sw` state words at width `w` in index order and the algorithm's byte
order, truncated to `nn` bytes. Where the words have fewer than `nn` bytes R64's slice is not defined: all of them,
and no more, are given. DESIGN CHOICE, notes/assumptions/21.md. -/
def serialize (e : Endian) (w sw nn : Nat) (h : HRegs) : List Byte :=
  ((List.range sw).flatMap fun i => endianBytes e ((hReg h i).setWidth w).toNat (w / 8)).take nn

/-- `HEXCH(n)` (40_engine R126). -/
def hexChar (n : Nat) : Byte :=
  if n < 10 then BitVec.ofNat 8 (0x30 + n) else BitVec.ofNat 8 (0x61 + (n - 10))

/-- Lowercase hexadecimal text, most significant nibble first (40_engine R126). -/
def hexText (bytes : List Byte) : List Byte :=
  bytes.flatMap fun (b : Byte) => [hexChar (b >>> 4).toNat, hexChar (b &&& 0xF#8).toNat]

end Sys2Proof.Machine
end

