-- ==== Sys2Proof/Machine/Descriptor.lean ====
section
/-!
DEFINITION. The fourteen algorithms, their ALGID codes (30_encoding R84), the descriptor ROM (10_state R36)
and the legality of a requested digest length (30_encoding R85).
-/

namespace Sys2Proof.Machine

/-- The algorithms in scope (00_scope R3). -/
inductive Alg where
  | md5
  | ripemd128
  | ripemd160
  | ripemd256
  | ripemd320
  | sha1
  | sha224
  | sha256
  | sha384
  | sha512
  | sha512t224
  | sha512t256
  | blake2s
  | blake2b
  deriving DecidableEq, Repr

/-- The algorithm's ALGID (R84). -/
def Alg.id : Alg → BitVec 8
  | .md5 => 0x01#8
  | .ripemd128 => 0x02#8
  | .ripemd160 => 0x03#8
  | .ripemd256 => 0x04#8
  | .ripemd320 => 0x05#8
  | .sha1 => 0x06#8
  | .sha224 => 0x07#8
  | .sha256 => 0x08#8
  | .sha384 => 0x09#8
  | .sha512 => 0x0A#8
  | .sha512t224 => 0x0B#8
  | .sha512t256 => 0x0C#8
  | .blake2s => 0x0D#8
  | .blake2b => 0x0E#8

/-- The algorithm an ALGID names; `none` for 0x00 and 0x0F to 0xFF (R84). -/
def Alg.ofId (v : BitVec 8) : Option Alg :=
  match v.toNat with
  | 1 => some .md5
  | 2 => some .ripemd128
  | 3 => some .ripemd160
  | 4 => some .ripemd256
  | 5 => some .ripemd320
  | 6 => some .sha1
  | 7 => some .sha224
  | 8 => some .sha256
  | 9 => some .sha384
  | 10 => some .sha512
  | 11 => some .sha512t224
  | 12 => some .sha512t256
  | 13 => some .blake2s
  | 14 => some .blake2b
  | _ => none

/-- The padding schemes (10_state R36, column scheme). -/
inductive Scheme where
  | mdLe
  | mdBe
  | blake
  deriving DecidableEq, Repr

/-- The PADSEL the sequencer derives from the scheme column (30_encoding R92). -/
def Scheme.padsel : Scheme → BitVec 2
  | .mdLe => 0
  | .mdBe => 1
  | .blake => 2

/-- One row of the descriptor ROM (10_state R36). -/
structure Desc where
  /-- BS -/
  bs : BlockSize
  /-- W -/
  width : WordWidth
  /-- E -/
  endian : Endian
  /-- scheme -/
  scheme : Scheme
  /-- SW -/
  sw : Nat
  /-- NN, or the default NN of BLAKE2 -/
  nn : BitVec 7
  /-- the IV's words, zero-extended to 64 bits -/
  iv : List Word64
  /-- CSEL -/
  csel : BitVec 4
  deriving DecidableEq, Repr

/-- 32-bit words zero-extended to 64 bits (10_state R24). -/
def zext64 (l : List Word32) : List Word64 := l.map (·.setWidth 64)

/-- The descriptor ROM (10_state R36). -/
def Alg.desc : Alg → Desc
  | .md5 => ⟨.b64, .w32, .little, .mdLe, 4, 16, zext64 Rom.md5Iv, 0x0⟩
  | .ripemd128 => ⟨.b64, .w32, .little, .mdLe, 4, 16, zext64 Rom.rmd128Iv, 0x1⟩
  | .ripemd160 => ⟨.b64, .w32, .little, .mdLe, 5, 20, zext64 Rom.rmd160Iv, 0x2⟩
  | .ripemd256 => ⟨.b64, .w32, .little, .mdLe, 8, 32, zext64 Rom.rmd256Iv, 0x3⟩
  | .ripemd320 => ⟨.b64, .w32, .little, .mdLe, 10, 40, zext64 Rom.rmd320Iv, 0x4⟩
  | .sha1 => ⟨.b64, .w32, .big, .mdBe, 5, 20, zext64 Rom.sha1Iv, 0x5⟩
  | .sha224 => ⟨.b64, .w32, .big, .mdBe, 8, 28, zext64 Rom.sha224Iv, 0x6⟩
  | .sha256 => ⟨.b64, .w32, .big, .mdBe, 8, 32, zext64 Rom.sha256Iv, 0x6⟩
  | .sha384 => ⟨.b128, .w64, .big, .mdBe, 8, 48, Rom.sha384Iv, 0x7⟩
  | .sha512 => ⟨.b128, .w64, .big, .mdBe, 8, 64, Rom.sha512Iv, 0x7⟩
  | .sha512t224 => ⟨.b128, .w64, .big, .mdBe, 8, 28, Rom.sha512t224Iv, 0x7⟩
  | .sha512t256 => ⟨.b128, .w64, .big, .mdBe, 8, 32, Rom.sha512t256Iv, 0x7⟩
  | .blake2s => ⟨.b64, .w32, .little, .blake, 8, 32, zext64 Rom.blake2sIv, 0x8⟩
  | .blake2b => ⟨.b128, .w64, .little, .blake, 8, 64, Rom.blake2bIv, 0x9⟩

/-- `NN_LEGAL(ALGID, NNREQ)` (30_encoding R85): 0 or the fixed length, or any length up to the largest of
BLAKE2. -/
def Alg.nnLegal (a : Alg) (nnreq : BitVec 7) : Bool :=
  match a with
  | .blake2s => nnreq.toNat ≤ 32
  | .blake2b => nnreq.toNat ≤ 64
  | a => nnreq = 0 ∨ nnreq = a.desc.nn

/-- The digest length a legal NNREQ selects: 0 selects the default (R85, R120). -/
def Alg.digestLen (a : Alg) (nnreq : BitVec 7) : BitVec 7 :=
  if nnreq = 0 then a.desc.nn else nnreq

/-- The state registers INIT loads (R120): the IV in `H[0..SW)`, 0 in the rest, and for BLAKE2 the parameter
word folded into H[0] (46_blake2 R311). -/
def Alg.initH (a : Alg) (nn : BitVec 7) : HRegs :=
  tab 10 fun i =>
    let word := if i < a.desc.sw then a.desc.iv.getD i 0 else 0
    if i = 0 ∧ a.desc.scheme = .blake then word ^^^ (0x01010000#64 ^^^ nn.setWidth 64) else word

end Sys2Proof.Machine
end

