-- ==== Sys2Proof/Machine/State.lean ====
section
/-!
DEFINITION. The state of one engine instance (10_state R20), the model's own channels to the host and to the
units, the result codes (60_exceptions R370), and the state after power-on reset (70_reset R400).
-/

namespace Sys2Proof.Machine

/-- The result codes (60_exceptions R370). Codes 9 to 15 are never produced, so they have no name. -/
inductive ResultCode where
  /-- 0 `OK` -/
  | ok
  /-- 1 `E_ILLEGAL_CMD` -/
  | illegalCmd
  /-- 2 `E_UNKNOWN_ALG` -/
  | unknownAlg
  /-- 3 `E_NO_ALG` -/
  | noAlg
  /-- 4 `E_FINALIZED` -/
  | finalized
  /-- 5 `E_LENGTH_LIMIT` -/
  | lengthLimit
  /-- 6 `E_FATAL_STATE` -/
  | fatalState
  /-- 7 `E_PAD_INTERNAL` -/
  | padInternal
  /-- 8 `E_UNIT_RESERVED` -/
  | unitReserved
  deriving DecidableEq, Repr

/-- A transaction the host issues: a command word and a payload (30_encoding R80). -/
structure Transaction where
  cw : BitVec 32
  payload : List Byte
  deriving DecidableEq, Repr

/-- A response of the engine: CODE, STATUS as it stands after the command, DATA (30_encoding R82). -/
structure Response where
  code : ResultCode
  status : BitVec 32
  data : List Byte
  deriving DecidableEq, Repr

/-- The operand and result wires of the internal units, for an internal operation that is performed by
itself. DESIGN CHOICE, notes/assumptions/3.md: the spec gives the units no register; a host command reads
and writes none of these. -/
structure Ports where
  /-- BS, the padding controller's block size (41_padding R160 to R162) -/
  bs : BlockSize
  /-- buf, the padding controller's pending bytes -/
  buf : List Byte
  /-- L, the padding controller's message length in bytes -/
  len : Word64
  /-- the padded tail the padding controller returns -/
  tail : List Byte
  /-- blk, a compression unit's block; a 64-byte unit takes the first 64 bytes (30_encoding R95) -/
  blk : Vector Byte 128
  /-- t, the BLAKE2 byte counter, 128 bits (R95) -/
  t : BitVec 128
  /-- last, the BLAKE2 last-block flag (R95) -/
  last : Bool
  /-- a, the first word64_alu operand (47_word64_alu R341) -/
  a : Word64
  /-- b, the second word64_alu operand -/
  b : Word64
  /-- r, the word64_alu result -/
  r : Word64
  deriving DecidableEq, Repr

/-- The state. The first eleven fields are the registers of 10_state R20; the others are the model's own. -/
structure State where
  /-- ALG: the selected algorithm, or none for 0x00 (R21); its 8-bit view is `State.algId`. -/
  alg : Option Alg
  /-- NN: the digest length in bytes (R22) -/
  nn : BitVec 7
  /-- VARIANT (R23) -/
  variant : BitVec 1
  /-- H[0..9] (R24) -/
  h : HRegs
  /-- COUNT (R25) -/
  count : Word64
  /-- PBUF[0..127] (R26) -/
  pbuf : Vector Byte 128
  /-- PLEN (R26) -/
  plen : BitVec 8
  /-- FIN (R27) -/
  fin : Bool
  /-- DIG[0..63] (R28) -/
  dig : Vector Byte 64
  /-- FATAL (R29) -/
  fatal : Bool
  /-- LASTERR (R30); its 4-bit view is `ResultCode.bits`. -/
  lasterr : ResultCode
  /-- Transactions issued by the host and not yet performed, oldest first. DESIGN CHOICE, assumption 1. -/
  inbox : List Transaction
  /-- Responses returned, oldest first. DESIGN CHOICE, assumption 1. -/
  outbox : List Response
  /-- An internal selector waiting to be performed by itself; none in every run from reset. DESIGN CHOICE,
  assumption 3. -/
  sel : Option Selector
  /-- The units' operand and result wires. DESIGN CHOICE, assumption 3. -/
  ports : Ports
  /-- How many times unspecified values have been drawn (60_exceptions R377). DESIGN CHOICE, assumption 6. -/
  draws : Nat
  deriving DecidableEq, Repr

/-- Why the machine stops with a fault: never. Every command the host can issue, every malformed command word
and every reserved selector has an effect that the spec gives (60_exceptions R370 to R378, 47_word64_alu
R349), so no meaning raises a fault and this type has no constructor. Safe: no run is cut short.
notes/assumptions/17.md. -/
inductive Fault where
  deriving DecidableEq, Repr

/-- Why a step is refused. -/
inductive Refusal where
  /-- An operation whose meaning the model does not hold yet, by its mnemonic. Raised by an arm of exec only;
  no arm raises it now. Safe: the machine stops. -/
  | notModelled (mnemonic : String)
  deriving DecidableEq, Repr

/-- All wires of the units at 0. -/
def Ports.reset : Ports :=
  { bs := .b64, buf := [], len := 0, tail := [], blk := tab 128 fun _ => 0, t := 0, last := false,
    a := 0, b := 0, r := 0 }

/-- The state right after power-on reset (70_reset R400, 10_state R38): every register 0, and no transaction,
response or selector. -/
def State.reset : State :=
  { alg := none, nn := 0, variant := 0, h := tab 10 fun _ => 0, count := 0, pbuf := tab 128 fun _ => 0,
    plen := 0, fin := false, dig := tab 64 fun _ => 0, fatal := false, lasterr := .ok,
    inbox := [], outbox := [], sel := none, ports := Ports.reset, draws := 0 }

end Sys2Proof.Machine
end

