-- ==== Sys2Proof/Machine/Flags.lean ====
section
/-!
DEFINITION. The status word (10_state R33) and the numbers it shows: the 8-bit ALG and the 4-bit result code.
The block's only flags are FIN and FATAL (R32).
-/

namespace Sys2Proof.Machine

/-- The 4-bit number of a result code (60_exceptions R370). -/
def ResultCode.bits : ResultCode → BitVec 4
  | .ok => 0
  | .illegalCmd => 1
  | .unknownAlg => 2
  | .noAlg => 3
  | .finalized => 4
  | .lengthLimit => 5
  | .fatalState => 6
  | .padInternal => 7
  | .unitReserved => 8

/-- ALG as the 8-bit number it is: the ALGID of the selected algorithm, or 0x00 (10_state R21). -/
def State.algId (s : State) : BitVec 8 :=
  match s.alg with
  | some a => a.id
  | none => 0

/-- `STATUS = ALG | (NN << 8) | (VARIANT << 15) | (FIN << 16) | (FATAL << 17) | (LASTERR << 20)` (10_state
R33); the other bits read 0. -/
def State.status (s : State) : BitVec 32 :=
  s.algId.setWidth 32 ||| (s.nn.setWidth 32 <<< 8) ||| (s.variant.setWidth 32 <<< 15) |||
  ((BitVec.ofBool s.fin).setWidth 32 <<< 16) ||| ((BitVec.ofBool s.fatal).setWidth 32 <<< 17) |||
  (s.lasterr.bits.setWidth 32 <<< 20)

end Sys2Proof.Machine
end

