-- ==== Sys2Proof/Machine/Ops.lean ====
section
/-!
DEFINITION. The named operations over the state that the meanings share: the transaction under execution and
its response (30_encoding R80, R82), acceptance and rejection (60_exceptions R372), fatal failures (R377),
the check order (R371), and the end of an internal operation. `reject` and `failFatal` are what this hardware
has in place of taking an exception (R381); there is no return from one (R382).
-/

namespace Sys2Proof.Machine

/-- The payload of the transaction under execution, the oldest one of the inbox (R80). -/
def State.payload (s : State) : List Byte :=
  match s.inbox with
  | [] => []
  | tx :: _ => tx.payload

/-- `PBUF[0..PLEN)`, the pending bytes (10_state R26). -/
def State.pending (s : State) : List Byte := s.pbuf.toList.take s.plen.toNat

/-- `COUNT + PLEN`, the message length so far (10_state R25), an exact number. -/
def State.msgLen (s : State) : Nat := s.count.toNat + s.plen.toNat

/-- Return the response of the transaction under execution, which is then done (R80, R82). -/
def respond (code : ResultCode) (data : List Byte) (s : State) : State :=
  { s with inbox := s.inbox.tail, outbox := s.outbox ++ [⟨code, s.status, data⟩] }

/-- `LASTERR <- code` (10_state R30). -/
def setLastErr (code : ResultCode) (s : State) : State := { s with lasterr := code }

/-- A command other than STAT completes: `LASTERR <- OK` and the response `OK` with its data. -/
def accept (data : List Byte) (s : State) : State := respond .ok data (setLastErr .ok s)

/-- Rejection (60_exceptions R372): `LASTERR <- code`, the response `code` with no data, nothing else. -/
def reject (code : ResultCode) (s : State) : State := respond code [] (setLastErr code s)

/-- The registers E_UNIT_RESERVED leaves unspecified (R377), each with a free value of Config, and a fresh
draw for the next time. -/
def drawUnspecified (s : State) : State :=
  { s with
    h := tab 10 (Config.freeH s.draws)
    count := Config.freeCount s.draws
    pbuf := tab 128 (Config.freePbuf s.draws)
    plen := Config.freePlen s.draws
    dig := tab 64 (Config.freeDig s.draws)
    draws := s.draws + 1 }

/-- `FATAL <- 1; LASTERR <- code` (R377). After E_UNIT_RESERVED the hidden registers and DIG are unspecified;
after E_PAD_INTERNAL they keep their values. -/
def setFatal (code : ResultCode) (s : State) : State :=
  let s := if code = .unitReserved then drawUnspecified s else s
  { s with fatal := true, lasterr := code }

/-- A fatal failure of the command under execution (R377): its effect and the response with no data. -/
def failFatal (code : ResultCode) (s : State) : State := respond code [] (setFatal code s)

/-- Checks 2 and 3 of the check order (60_exceptions R371), for ADD, FINISH, TOBIN and TOHEX: a fatal state,
then no algorithm. They give the selected algorithm. -/
def selectedAlg (s : State) : Except ResultCode Alg :=
  if s.fatal then .error .fatalState
  else
    match s.alg with
    | none => .error .noAlg
    | some a => .ok a

/-- Checks 1 to 3 (R371): the payload length the command needs, then `selectedAlg`. -/
def checkSelected (payloadLen : Nat) (s : State) : Except ResultCode Alg :=
  if s.payload.length = payloadLen then selectedAlg s else .error .illegalCmd

/-- The end of an internal operation that was performed by itself: its selector has been consumed. -/
def unitDone (s : State) : State := { s with sel := none }

/-- A reserved selector, or a reserved amount, reached a unit (30_encoding R92 to R94, 47_word64_alu R349,
60_exceptions R377). No transaction is under execution, so no response is returned: DESIGN CHOICE,
notes/assumptions/7.md. -/
def unitReservedAlone (s : State) : State := unitDone (setFatal .unitReserved s)

end Sys2Proof.Machine
end

