-- ==== Sys2Proof/Machine/Alu64.lean ====
section
/-!
DEFINITION. The word arithmetic of the compression units: native arithmetic at any width (00_scope R9) and
`word64_alu`, the 64-bit arithmetic on two 32-bit halves (47_word64_alu). P_NATIVE64 chooses between them for
the 64-bit units (45_sha2 R283, 46_blake2 R314). The seven W64 operations as instructions stand at the end.
-/

namespace Sys2Proof.Machine

/-- The word operations a compression unit uses (00_scope R9). -/
structure Alu (w : Nat) where
  not : BitVec w → BitVec w
  and : BitVec w → BitVec w → BitVec w
  or : BitVec w → BitVec w → BitVec w
  xor : BitVec w → BitVec w → BitVec w
  add : BitVec w → BitVec w → BitVec w
  rotr : BitVec w → Nat → BitVec w
  shr : BitVec w → Nat → BitVec w

/-- Native arithmetic on `w`-bit words (R9). -/
def nativeAlu (w : Nat) : Alu w :=
  { not := fun a => ~~~a
    and := fun a b => a &&& b
    or := fun a b => a ||| b
    xor := fun a b => a ^^^ b
    add := fun a b => a + b
    rotr := fun a n => Machine.rotr a n
    shr := fun a n => a >>> n }

/-- `x.hi = x[63:32]` (R341). -/
def hi32 (x : Word64) : Word32 := x.extractLsb' 32 32

/-- `x.lo = x[31:0]` (R341). -/
def lo32 (x : Word64) : Word32 := x.extractLsb' 0 32

/-- `x = x.hi * 2^32 + x.lo` (R341). -/
def join64 (hi lo : Word32) : Word64 := hi ++ lo

/-- W64_NOT on halves (R342). -/
def halvesNot (a : Word64) : Word64 := join64 (~~~hi32 a) (~~~lo32 a)

/-- W64_AND on halves (R343). -/
def halvesAnd (a b : Word64) : Word64 := join64 (hi32 a &&& hi32 b) (lo32 a &&& lo32 b)

/-- W64_OR on halves (R344). -/
def halvesOr (a b : Word64) : Word64 := join64 (hi32 a ||| hi32 b) (lo32 a ||| lo32 b)

/-- W64_XOR on halves (R345). -/
def halvesXor (a b : Word64) : Word64 := join64 (hi32 a ^^^ hi32 b) (lo32 a ^^^ lo32 b)

/-- W64_ADD on halves, with the carry of the exact 33-bit sum of the low halves (R346). -/
def halvesAdd (a b : Word64) : Word64 :=
  let s : BitVec 33 := (lo32 a).setWidth 33 + (lo32 b).setWidth 33
  let carry : Word32 := (s.extractLsb' 32 1).setWidth 32
  join64 (hi32 a + hi32 b + carry) (s.extractLsb' 0 32)

/-- W64_ROTR on halves by `n` in 0..63: the halves are swapped for n >= 32, and the rest is a sub-32 rotate
(R347). -/
def halvesRotr (a : Word64) (n : Nat) : Word64 :=
  let swap : Bool := n ≥ 32
  let h := if swap then lo32 a else hi32 a
  let l := if swap then hi32 a else lo32 a
  let k := if swap then n - 32 else n
  if k = 0 then join64 h l
  else join64 ((h >>> k) ||| (l <<< (32 - k))) ((l >>> k) ||| (h <<< (32 - k)))

/-- W64_SHR on halves by `n` in 0..64, zero-filled (R348). -/
def halvesShr (a : Word64) (n : Nat) : Word64 :=
  if n = 64 then 0
  else if n ≥ 32 then join64 0 (hi32 a >>> (n - 32))
  else if n = 0 then a
  else join64 (hi32 a >>> n) ((lo32 a >>> n) ||| (hi32 a <<< (32 - n)))

/-- `word64_alu` (R341 to R348). -/
def halvesAlu : Alu 64 :=
  { not := halvesNot
    and := halvesAnd
    or := halvesOr
    xor := halvesXor
    add := halvesAdd
    rotr := halvesRotr
    shr := halvesShr }

/-- The arithmetic of the 64-bit units for a value of P_NATIVE64 (45_sha2 R283). -/
def alu64 (native : Bool) : Alu 64 := if native then nativeAlu 64 else halvesAlu

/-! ## The W64 operations by themselves -/

/-- A W64 operation on the operand wires whose result goes to the result wire; a reserved amount gives no
result and raises E_UNIT_RESERVED (R341, R349). -/
def w64Op (legal : Bool) (f : Word64 → Word64 → Word64) (s : State) :
    Host.Outcome State Fault Refusal :=
  if legal then .next (unitDone { s with ports := { s.ports with r := f s.ports.a s.ports.b } })
  else .next (unitReservedAlone s)

/-- W64_NOT (R342). -/
def execW64Not (s : State) : Host.Outcome State Fault Refusal := w64Op true (fun a _ => halvesNot a) s

/-- W64_AND (R343). -/
def execW64And (s : State) : Host.Outcome State Fault Refusal := w64Op true halvesAnd s

/-- W64_OR (R344). -/
def execW64Or (s : State) : Host.Outcome State Fault Refusal := w64Op true halvesOr s

/-- W64_XOR (R345). -/
def execW64Xor (s : State) : Host.Outcome State Fault Refusal := w64Op true halvesXor s

/-- W64_ADD (R346). -/
def execW64Add (s : State) : Host.Outcome State Fault Refusal := w64Op true halvesAdd s

/-- W64_ROTR: AMT in 0..63 (R347); 64 to 127 are reserved (R349). -/
def execW64Rotr (amt : BitVec 7) (s : State) : Host.Outcome State Fault Refusal :=
  w64Op (amt.toNat ≤ 63) (fun a _ => halvesRotr a amt.toNat) s

/-- W64_SHR: AMT in 0..64 (R348); 65 to 127 are reserved (R349). -/
def execW64Shr (amt : BitVec 7) (s : State) : Host.Outcome State Fault Refusal :=
  w64Op (amt.toNat ≤ 64) (fun a _ => halvesShr a amt.toNat) s

end Sys2Proof.Machine
end

