-- ==== Sys2Proof/Machine/Blake2.lean ====
section
/-!
DEFINITION. The BLAKE2 compression units s and b (46_blake2). They share their structure; a unit is given by
its word arithmetic, its number of rounds, its rotation amounts and its IV (R310).
-/

namespace Sys2Proof.Machine

/-- What distinguishes the two BLAKE2 units (R310, R311). -/
structure Blake2Unit (w : Nat) where
  alu : Alu w
  rounds : Nat
  r1 : Nat
  r2 : Nat
  r3 : Nat
  r4 : Nat
  iv : List (BitVec w)

/-- BLAKE2s: 32-bit words, 10 rounds, rotations 16 12 8 7 (R310). -/
def blake2sParams : Blake2Unit 32 :=
  { alu := nativeAlu 32, rounds := 10, r1 := 16, r2 := 12, r3 := 8, r4 := 7, iv := Rom.blake2sIv }

/-- BLAKE2b for a value of P_NATIVE64: 64-bit words, 12 rounds, rotations 32 24 16 63 (R310, R314). -/
def blake2bParams (native : Bool) : Blake2Unit 64 :=
  { alu := alu64 native, rounds := 12, r1 := 32, r2 := 24, r3 := 16, r4 := 63, iv := Rom.blake2bIv }

/-- The working vector v[0..16) (R314). -/
abbrev Blake2Work (w : Nat) := Vector (BitVec w) 16

/-- Half of `G`: `v[a] <- v[a] + v[b] + x; v[d] <- rotr(v[d] ^ v[a], r); v[c] <- v[c] + v[d];
v[b] <- rotr(v[b] ^ v[c], r')` (R314). -/
def blake2HalfG {w : Nat} (u : Alu w) (r r' : Nat) (a b c d : Fin 16) (x : BitVec w) (v : Blake2Work w) :
    Blake2Work w :=
  let va := u.add (u.add v[a] v[b]) x
  let vd := u.rotr (u.xor v[d] va) r
  let vc := u.add v[c] vd
  let vb := u.rotr (u.xor v[b] vc) r'
  (((v.set a va).set d vd).set c vc).set b vb

/-- The mixing function `G(a, b, c, d, x, y)` (R314). -/
def blake2G {w : Nat} (p : Blake2Unit w) (a b c d : Fin 16) (x y : BitVec w) (v : Blake2Work w) :
    Blake2Work w :=
  blake2HalfG p.alu p.r3 p.r4 a b c d y (blake2HalfG p.alu p.r1 p.r2 a b c d x v)

/-- Round `i`: the four columns, then the four diagonals, with row `i mod 10` of the permutation (R315). -/
def blake2Round {w : Nat} (p : Blake2Unit w) (x : Vector (BitVec w) 16) (v : Blake2Work w) (i : Nat) :
    Blake2Work w :=
  let s := Rom.blake2Sigma.getD (i % 10) []
  let m := fun j => x[s.getD j 0]
  let v := blake2G p 0 4 8 12 (m 0) (m 1) v
  let v := blake2G p 1 5 9 13 (m 2) (m 3) v
  let v := blake2G p 2 6 10 14 (m 4) (m 5) v
  let v := blake2G p 3 7 11 15 (m 6) (m 7) v
  let v := blake2G p 0 5 10 15 (m 8) (m 9) v
  let v := blake2G p 1 6 11 12 (m 10) (m 11) v
  let v := blake2G p 2 7 8 13 (m 12) (m 13) v
  blake2G p 3 4 9 14 (m 14) (m 15) v

/-- The working vector before the first round, with the counter words `t0`, `t1` of R313 and the inversion
of v[14] for the last block (R316, R317). -/
def blake2Init {w : Nat} (p : Blake2Unit w) (h : Vector (BitVec w) 8) (t : BitVec 128) (last : Bool) :
    Blake2Work w :=
  let iv := fun j => p.iv.getD j 0
  let t0 := t.extractLsb' 0 w
  let t1 := t.extractLsb' w w
  let v14 := if last then p.alu.not (iv 6) else iv 6
  #v[h[0], h[1], h[2], h[3], h[4], h[5], h[6], h[7],
     iv 0, iv 1, iv 2, iv 3, p.alu.xor (iv 4) t0, p.alu.xor (iv 5) t1, v14, iv 7]

/-- A BLAKE2 compression: initialisation, rounds, `h[j] ^ v[j] ^ v[j+8]` (R316, R317). -/
def blake2Block {w : Nat} (p : Blake2Unit w) (h : Vector (BitVec w) 8) (x : Vector (BitVec w) 16)
    (t : BitVec 128) (last : Bool) : Vector (BitVec w) 8 :=
  let v := (List.range p.rounds).foldl (blake2Round p x) (blake2Init p h t last)
  let fold := fun (a b c : BitVec w) => p.alu.xor (p.alu.xor a b) c
  #v[fold h[0] v[0] v[8], fold h[1] v[1] v[9], fold h[2] v[2] v[10], fold h[3] v[3] v[11],
     fold h[4] v[4] v[12], fold h[5] v[5] v[13], fold h[6] v[6] v[14], fold h[7] v[7] v[15]]

/-- BLAKE2S_COMPRESS between the state registers and a block (30_encoding R95, 40_engine R123). -/
def blake2sUnit (h : HRegs) (blk : List Byte) (t : BitVec 128) (last : Bool) : HRegs :=
  writeWords h (blake2Block blake2sParams (readWords 32 8 h) (blockWords .little 32 blk) t last)

/-- BLAKE2B_COMPRESS between the state registers and a block, for a value of P_NATIVE64. -/
def blake2bUnit (native : Bool) (h : HRegs) (blk : List Byte) (t : BitVec 128) (last : Bool) : HRegs :=
  writeWords h (blake2Block (blake2bParams native) (readWords 64 8 h) (blockWords .little 64 blk) t last)

/-- BLAKE2S_COMPRESS by itself (R316). -/
def execBlake2sCompress (s : State) : Host.Outcome State Fault Refusal :=
  .next (unitDone { s with h := blake2sUnit s.h s.ports.blk.toList s.ports.t s.ports.last })

/-- BLAKE2B_COMPRESS by itself (R317). -/
def execBlake2bCompress (s : State) : Host.Outcome State Fault Refusal :=
  .next (unitDone { s with h := blake2bUnit Config.native64 s.h s.ports.blk.toList s.ports.t s.ports.last })

end Sys2Proof.Machine
end

