-- ==== Sys2Proof/Machine/Md5.lean ====
section
/-!
DEFINITION. The MD5 compression unit (42_md5).
-/

namespace Sys2Proof.Machine

/-- MD5's working words (a, b, c, d) (R195). -/
structure Md5Work where
  a : Word32
  b : Word32
  c : Word32
  d : Word32
  deriving DecidableEq, Repr

/-- The round function of round `g` (R191). -/
def md5Fun (g : Nat) (b c d : Word32) : Word32 :=
  match g with
  | 0 => (b &&& c) ||| (~~~b &&& d)
  | 1 => (b &&& d) ||| (c &&& ~~~d)
  | 2 => b ^^^ c ^^^ d
  | _ => c ^^^ (b ||| ~~~d)

/-- Step `i` (R195). -/
def md5Step (x : Vector Word32 16) (s : Md5Work) (i : Nat) : Md5Work :=
  let t := s.a + md5Fun (i / 16) s.b s.c s.d + x[Rom.md5Idx.getD i 0] + Rom.md5T.getD i 0
  ⟨s.d, s.b + rotl t (Rom.md5S.getD i 0), s.b, s.c⟩

/-- The 64 steps in order (R196). -/
def md5Steps (x : Vector Word32 16) (s : Md5Work) : Md5Work := (List.range 64).foldl (md5Step x) s

/-- `MD5_COMPRESS(h[0..4), X[0..16))` with its feed-forward (R198). -/
def md5Block (h : Vector Word32 4) (x : Vector Word32 16) : Vector Word32 4 :=
  let w := md5Steps x ⟨h[0], h[1], h[2], h[3]⟩
  #v[h[0] + w.a, h[1] + w.b, h[2] + w.c, h[3] + w.d]

/-- The unit between the state registers and a block (30_encoding R95, 40_engine R123). -/
def md5Unit (h : HRegs) (blk : List Byte) : HRegs :=
  writeWords h (md5Block (readWords 32 4 h) (blockWords .little 32 blk))

/-- MD5_COMPRESS by itself: the block is on the block wires, the result goes to H[0..3] (R198). -/
def execMd5Compress (s : State) : Host.Outcome State Fault Refusal :=
  .next (unitDone { s with h := md5Unit s.h s.ports.blk.toList })

end Sys2Proof.Machine
end

