-- ==== Sys2Proof/Machine/Padding.lean ====
section
/-!
DEFINITION. The padding controller (41_padding): three pure functions from the pending bytes and the message
length to the padded tail, and the selection among them (30_encoding R92).
-/

namespace Sys2Proof.Machine

/-- PAD_MD_LE(buf, L) (R160), for a buf of fewer than BS bytes and `8 * L < 2^64`. Beyond these the pseudocode is
read with the same formulas: DESIGN CHOICE, notes/assumptions/18.md and 19.md. -/
def padMdLe (bs : BlockSize) (buf : List Byte) (len : Nat) : List Byte :=
  let z := (bs.bytes - (buf.length + 9) % bs.bytes) % bs.bytes
  buf ++ [0x80] ++ zeros z ++ bytesLe (8 * len) 8

/-- PAD_MD_BE(buf, L), with a length field of LF = BS / 8 bytes (R161), for a buf of fewer than BS bytes and
`8 * L < 2^64`. Beyond these the pseudocode is read with the same formulas: DESIGN CHOICE,
notes/assumptions/18.md and 19.md. -/
def padMdBe (bs : BlockSize) (buf : List Byte) (len : Nat) : List Byte :=
  let lf := bs.bytes / 8
  let z := (bs.bytes - (buf.length + 1 + lf) % bs.bytes) % bs.bytes
  buf ++ [0x80] ++ zeros z ++ bytesBe (8 * len) lf

/-- PAD_BLAKE(buf) (R162), for a buf of at most BS bytes. For a longer one R162 gives no tail: `zeros(BS - n)` is
taken as empty, so the tail is buf itself. DESIGN CHOICE, notes/assumptions/18.md. -/
def padBlake (bs : BlockSize) (buf : List Byte) : List Byte := buf ++ zeros (bs.bytes - buf.length)

/-- The padding function a PADSEL selects; PADSEL = 3 is reserved (30_encoding R92, 40_engine R124). -/
def padTail (padsel : BitVec 2) (bs : BlockSize) (buf : List Byte) (len : Nat) :
    Except ResultCode (List Byte) :=
  match decodePadsel padsel with
  | .ok .padMdLe => .ok (padMdLe bs buf len)
  | .ok .padMdBe => .ok (padMdBe bs buf len)
  | .ok .padBlake => .ok (padBlake bs buf)
  | _ => .error .unitReserved

/-- A padding operation by itself: operands and result on the wires (R160 to R162). It raises no error. A buf on
the wires outside the operand range of its rule gives a longer tail, and for PAD_BLAKE an unpadded one: DESIGN
CHOICE, notes/assumptions/20.md. -/
def padOp (tail : List Byte) (s : State) : Host.Outcome State Fault Refusal :=
  .next (unitDone { s with ports := { s.ports with tail := tail } })

/-- PAD_MD_LE by itself (R160). -/
def execPadMdLe (s : State) : Host.Outcome State Fault Refusal :=
  padOp (padMdLe s.ports.bs s.ports.buf s.ports.len.toNat) s

/-- PAD_MD_BE by itself (R161). -/
def execPadMdBe (s : State) : Host.Outcome State Fault Refusal :=
  padOp (padMdBe s.ports.bs s.ports.buf s.ports.len.toNat) s

/-- PAD_BLAKE by itself (R162). -/
def execPadBlake (s : State) : Host.Outcome State Fault Refusal :=
  padOp (padBlake s.ports.bs s.ports.buf) s

end Sys2Proof.Machine
end

