-- ==== Sys2Proof/Machine/Ripemd.lean ====
section
/-!
DEFINITION. The RIPEMD compression units for 128, 160, 256 and 320 bits (43_ripemd): two lines of 4 or 5
working words over the same 16 block words.
-/

namespace Sys2Proof.Machine

/-- The boolean functions f1 to f5 (R211). -/
def rmdFun (n : Nat) (x y z : Word32) : Word32 :=
  match n with
  | 1 => x ^^^ y ^^^ z
  | 2 => (x &&& y) ||| (~~~x &&& z)
  | 3 => (x ||| ~~~y) ^^^ z
  | 4 => (x &&& z) ||| (y &&& ~~~z)
  | _ => x ^^^ (y ||| ~~~z)

/-- A 4-word line (A, B, C, D) (R218). -/
structure Line4 where
  A : Word32
  B : Word32
  C : Word32
  D : Word32
  deriving DecidableEq, Repr

/-- A 5-word line (A, B, C, D, E) (R218). -/
structure Line5 where
  A : Word32
  B : Word32
  C : Word32
  D : Word32
  E : Word32
  deriving DecidableEq, Repr

/-- STEP4 with function `f`, word `x`, constant `k` and rotation `n` (R218). -/
def rmdStep4 (f : Nat) (x k : Word32) (n : Nat) (l : Line4) : Line4 :=
  let t := rotl (l.A + rmdFun f l.B l.C l.D + x + k) n
  ⟨l.D, t, l.B, l.C⟩

/-- STEP5 with function `f`, word `x`, constant `k` and rotation `n` (R218). -/
def rmdStep5 (f : Nat) (x k : Word32) (n : Nat) (l : Line5) : Line5 :=
  let t := rotl (l.A + rmdFun f l.B l.C l.D + x + k) n + l.E
  ⟨l.E, t, l.B, rotl l.C 10, l.D⟩

/-- Step `j` of both 4-word lines: f(g+1) on the left, f(4-g) on the right (R212, R222). -/
def rmdPair4 (x : Vector Word32 16) (p : Line4 × Line4) (j : Nat) : Line4 × Line4 :=
  let g := j / 16
  (rmdStep4 (g + 1) x[Rom.rmdRL.getD j 0] (Rom.rmdKL.getD g 0) (Rom.rmdSL.getD j 0) p.1,
   rmdStep4 (4 - g) x[Rom.rmdRR.getD j 0] (Rom.rmdKR128.getD g 0) (Rom.rmdSR.getD j 0) p.2)

/-- Step `j` of both 5-word lines: f(g+1) on the left, f(5-g) on the right (R212, R223). -/
def rmdPair5 (x : Vector Word32 16) (p : Line5 × Line5) (j : Nat) : Line5 × Line5 :=
  let g := j / 16
  (rmdStep5 (g + 1) x[Rom.rmdRL.getD j 0] (Rom.rmdKL.getD g 0) (Rom.rmdSL.getD j 0) p.1,
   rmdStep5 (5 - g) x[Rom.rmdRR.getD j 0] (Rom.rmdKR160.getD g 0) (Rom.rmdSR.getD j 0) p.2)

/-- The word RIPEMD-256 exchanges between the lines after round `g` (R221). -/
def rmdSwap256 (g : Nat) (p : Line4 × Line4) : Line4 × Line4 :=
  match g with
  | 0 => ({ p.1 with A := p.2.A }, { p.2 with A := p.1.A })
  | 1 => ({ p.1 with B := p.2.B }, { p.2 with B := p.1.B })
  | 2 => ({ p.1 with C := p.2.C }, { p.2 with C := p.1.C })
  | _ => ({ p.1 with D := p.2.D }, { p.2 with D := p.1.D })

/-- The word RIPEMD-320 exchanges between the lines after round `g` (R221). -/
def rmdSwap320 (g : Nat) (p : Line5 × Line5) : Line5 × Line5 :=
  match g with
  | 0 => ({ p.1 with B := p.2.B }, { p.2 with B := p.1.B })
  | 1 => ({ p.1 with D := p.2.D }, { p.2 with D := p.1.D })
  | 2 => ({ p.1 with A := p.2.A }, { p.2 with A := p.1.A })
  | 3 => ({ p.1 with C := p.2.C }, { p.2 with C := p.1.C })
  | _ => ({ p.1 with E := p.2.E }, { p.2 with E := p.1.E })

/-- Step `j` of RIPEMD-256: the pair step, and the exchange after a round's last step (R224). -/
def rmdPair256 (x : Vector Word32 16) (p : Line4 × Line4) (j : Nat) : Line4 × Line4 :=
  if j % 16 = 15 then rmdSwap256 (j / 16) (rmdPair4 x p j) else rmdPair4 x p j

/-- Step `j` of RIPEMD-320: the pair step, and the exchange after a round's last step (R225). -/
def rmdPair320 (x : Vector Word32 16) (p : Line5 × Line5) (j : Nat) : Line5 × Line5 :=
  if j % 16 = 15 then rmdSwap320 (j / 16) (rmdPair5 x p j) else rmdPair5 x p j

/-- RMD128_COMPRESS (R220, R222). -/
def rmd128Block (h : Vector Word32 4) (x : Vector Word32 16) : Vector Word32 4 :=
  let i : Line4 := ⟨h[0], h[1], h[2], h[3]⟩
  let p := (List.range 64).foldl (rmdPair4 x) (i, i)
  #v[h[1] + p.1.C + p.2.D, h[2] + p.1.D + p.2.A, h[3] + p.1.A + p.2.B, h[0] + p.1.B + p.2.C]

/-- RMD160_COMPRESS (R220, R223). -/
def rmd160Block (h : Vector Word32 5) (x : Vector Word32 16) : Vector Word32 5 :=
  let i : Line5 := ⟨h[0], h[1], h[2], h[3], h[4]⟩
  let p := (List.range 80).foldl (rmdPair5 x) (i, i)
  #v[h[1] + p.1.C + p.2.D, h[2] + p.1.D + p.2.E, h[3] + p.1.E + p.2.A, h[4] + p.1.A + p.2.B,
     h[0] + p.1.B + p.2.C]

/-- RMD256_COMPRESS (R221, R224). -/
def rmd256Block (h : Vector Word32 8) (x : Vector Word32 16) : Vector Word32 8 :=
  let p := (List.range 64).foldl (rmdPair256 x) (⟨h[0], h[1], h[2], h[3]⟩, ⟨h[4], h[5], h[6], h[7]⟩)
  #v[h[0] + p.1.A, h[1] + p.1.B, h[2] + p.1.C, h[3] + p.1.D,
     h[4] + p.2.A, h[5] + p.2.B, h[6] + p.2.C, h[7] + p.2.D]

/-- RMD320_COMPRESS (R221, R225). -/
def rmd320Block (h : Vector Word32 10) (x : Vector Word32 16) : Vector Word32 10 :=
  let p := (List.range 80).foldl (rmdPair320 x)
    (⟨h[0], h[1], h[2], h[3], h[4]⟩, ⟨h[5], h[6], h[7], h[8], h[9]⟩)
  #v[h[0] + p.1.A, h[1] + p.1.B, h[2] + p.1.C, h[3] + p.1.D, h[4] + p.1.E,
     h[5] + p.2.A, h[6] + p.2.B, h[7] + p.2.C, h[8] + p.2.D, h[9] + p.2.E]

/-- The RIPEMD-128 unit between the state registers and a block (30_encoding R95, 40_engine R123). -/
def rmd128Unit (h : HRegs) (blk : List Byte) : HRegs :=
  writeWords h (rmd128Block (readWords 32 4 h) (blockWords .little 32 blk))

/-- The RIPEMD-160 unit between the state registers and a block. -/
def rmd160Unit (h : HRegs) (blk : List Byte) : HRegs :=
  writeWords h (rmd160Block (readWords 32 5 h) (blockWords .little 32 blk))

/-- The RIPEMD-256 unit between the state registers and a block. -/
def rmd256Unit (h : HRegs) (blk : List Byte) : HRegs :=
  writeWords h (rmd256Block (readWords 32 8 h) (blockWords .little 32 blk))

/-- The RIPEMD-320 unit between the state registers and a block. -/
def rmd320Unit (h : HRegs) (blk : List Byte) : HRegs :=
  writeWords h (rmd320Block (readWords 32 10 h) (blockWords .little 32 blk))

/-- RMD128_COMPRESS by itself (R222). -/
def execRmd128Compress (s : State) : Host.Outcome State Fault Refusal :=
  .next (unitDone { s with h := rmd128Unit s.h s.ports.blk.toList })

/-- RMD160_COMPRESS by itself (R223). -/
def execRmd160Compress (s : State) : Host.Outcome State Fault Refusal :=
  .next (unitDone { s with h := rmd160Unit s.h s.ports.blk.toList })

/-- RMD256_COMPRESS by itself (R224). -/
def execRmd256Compress (s : State) : Host.Outcome State Fault Refusal :=
  .next (unitDone { s with h := rmd256Unit s.h s.ports.blk.toList })

/-- RMD320_COMPRESS by itself (R225). -/
def execRmd320Compress (s : State) : Host.Outcome State Fault Refusal :=
  .next (unitDone { s with h := rmd320Unit s.h s.ports.blk.toList })

end Sys2Proof.Machine
end

