-- ==== Sys2Proof/Machine/Sha1.lean ====
section
/-!
DEFINITION. The SHA-1 compression unit (44_sha1).
-/

namespace Sys2Proof.Machine

/-- SHA-1's working words (a, b, c, d, e) (R254). -/
structure Sha1Work where
  a : Word32
  b : Word32
  c : Word32
  d : Word32
  e : Word32
  deriving DecidableEq, Repr

/-- The next schedule word from the words so far, newest first: `rotl(W[t-3] ^ W[t-8] ^ W[t-14] ^ W[t-16], 1)`
(R251). -/
def sha1NextWord (w : List Word32) : Word32 :=
  rotl (w.getD 2 0 ^^^ w.getD 7 0 ^^^ w.getD 13 0 ^^^ w.getD 15 0) 1

/-- `n` more schedule words, newest first (R251). -/
def sha1Extend : Nat → List Word32 → List Word32
  | 0, w => w
  | n + 1, w => sha1Extend n (sha1NextWord w :: w)

/-- W[0..80) (R251). -/
def sha1Schedule (x : Vector Word32 16) : List Word32 := (sha1Extend 64 x.toList.reverse).reverse

/-- The function of step `t` (R252). -/
def sha1Fun (t : Nat) (b c d : Word32) : Word32 :=
  match t / 20 with
  | 0 => (b &&& c) ^^^ (~~~b &&& d)
  | 1 => b ^^^ c ^^^ d
  | 2 => (b &&& c) ^^^ (b &&& d) ^^^ (c &&& d)
  | _ => b ^^^ c ^^^ d

/-- Step `t` with schedule word `w` (R254). -/
def sha1Step (t : Nat) (w : Word32) (s : Sha1Work) : Sha1Work :=
  let v := rotl s.a 5 + sha1Fun t s.b s.c s.d + s.e + Rom.sha1K.getD (t / 20) 0 + w
  ⟨v, s.a, rotl s.b 30, s.c, s.d⟩

/-- The steps from `t` on, one per schedule word. -/
def sha1Steps : Nat → List Word32 → Sha1Work → Sha1Work
  | _, [], s => s
  | t, w :: ws, s => sha1Steps (t + 1) ws (sha1Step t w s)

/-- SHA1_COMPRESS (R254). -/
def sha1Block (h : Vector Word32 5) (x : Vector Word32 16) : Vector Word32 5 :=
  let w := sha1Steps 0 (sha1Schedule x) ⟨h[0], h[1], h[2], h[3], h[4]⟩
  #v[h[0] + w.a, h[1] + w.b, h[2] + w.c, h[3] + w.d, h[4] + w.e]

/-- The unit between the state registers and a block (30_encoding R95, 40_engine R123). -/
def sha1Unit (h : HRegs) (blk : List Byte) : HRegs :=
  writeWords h (sha1Block (readWords 32 5 h) (blockWords .big 32 blk))

/-- SHA1_COMPRESS by itself (R254). -/
def execSha1Compress (s : State) : Host.Outcome State Fault Refusal :=
  .next (unitDone { s with h := sha1Unit s.h s.ports.blk.toList })

end Sys2Proof.Machine
end

