-- ==== Sys2Proof/Machine/Sha2.lean ====
section
/-!
DEFINITION. The SHA-2 compression units for 256 and 512 bits (45_sha2). The step and the schedule are shared
in form (R274); a unit is given by its word arithmetic, its rotation amounts and its constants.
-/

namespace Sys2Proof.Machine

/-- Three rotation or shift amounts. -/
structure Amounts where
  x : Nat
  y : Nat
  z : Nat
  deriving DecidableEq, Repr

/-- What distinguishes the two SHA-2 units (R271, R287). -/
structure Sha2Unit (w : Nat) where
  alu : Alu w
  /-- Σ0: three rotations -/
  bigSigma0 : Amounts
  /-- Σ1: three rotations -/
  bigSigma1 : Amounts
  /-- σ0: two rotations and a shift -/
  smallSigma0 : Amounts
  /-- σ1: two rotations and a shift -/
  smallSigma1 : Amounts
  /-- K -/
  k : List (BitVec w)

/-- The 256-bit unit: 32-bit native arithmetic (R271, R273, R277). -/
def sha256Params : Sha2Unit 32 :=
  { alu := nativeAlu 32, bigSigma0 := ⟨2, 13, 22⟩, bigSigma1 := ⟨6, 11, 25⟩,
    smallSigma0 := ⟨7, 18, 3⟩, smallSigma1 := ⟨17, 19, 10⟩, k := Rom.sha256K }

/-- The 512-bit unit for a value of P_NATIVE64 (R282, R283, R287). -/
def sha512Params (native : Bool) : Sha2Unit 64 :=
  { alu := alu64 native, bigSigma0 := ⟨28, 34, 39⟩, bigSigma1 := ⟨14, 18, 41⟩,
    smallSigma0 := ⟨1, 8, 7⟩, smallSigma1 := ⟨19, 61, 6⟩, k := Rom.sha512K }

/-- SHA-2's working words (a, ..., h) (R274). -/
structure Sha2Work (w : Nat) where
  a : BitVec w
  b : BitVec w
  c : BitVec w
  d : BitVec w
  e : BitVec w
  f : BitVec w
  g : BitVec w
  h : BitVec w
  deriving DecidableEq, Repr

/-- `rotr(v, x) ^ rotr(v, y) ^ rotr(v, z)` (R271, R287). -/
def bigSigma {w : Nat} (u : Alu w) (n : Amounts) (v : BitVec w) : BitVec w :=
  u.xor (u.xor (u.rotr v n.x) (u.rotr v n.y)) (u.rotr v n.z)

/-- `rotr(v, x) ^ rotr(v, y) ^ shr(v, z)` (R271, R287). -/
def smallSigma {w : Nat} (u : Alu w) (n : Amounts) (v : BitVec w) : BitVec w :=
  u.xor (u.xor (u.rotr v n.x) (u.rotr v n.y)) (u.shr v n.z)

/-- `Ch(x, y, z) = (x & y) ^ (~x & z)` (R271). -/
def sha2Ch {w : Nat} (u : Alu w) (x y z : BitVec w) : BitVec w :=
  u.xor (u.and x y) (u.and (u.not x) z)

/-- `Maj(x, y, z) = (x & y) ^ (x & z) ^ (y & z)` (R271). -/
def sha2Maj {w : Nat} (u : Alu w) (x y z : BitVec w) : BitVec w :=
  u.xor (u.xor (u.and x y) (u.and x z)) (u.and y z)

/-- The next schedule word from the words so far, newest first:
`σ1(W[t-2]) + W[t-7] + σ0(W[t-15]) + W[t-16]` (R272, R281). -/
def sha2NextWord {w : Nat} (p : Sha2Unit w) (l : List (BitVec w)) : BitVec w :=
  p.alu.add
    (p.alu.add (p.alu.add (smallSigma p.alu p.smallSigma1 (l.getD 1 0)) (l.getD 6 0))
      (smallSigma p.alu p.smallSigma0 (l.getD 14 0)))
    (l.getD 15 0)

/-- `n` more schedule words, newest first. -/
def sha2Extend {w : Nat} (p : Sha2Unit w) : Nat → List (BitVec w) → List (BitVec w)
  | 0, l => l
  | n + 1, l => sha2Extend p n (sha2NextWord p l :: l)

/-- The schedule, as long as the constant table (R272, R281). -/
def sha2Schedule {w : Nat} (p : Sha2Unit w) (x : Vector (BitVec w) 16) : List (BitVec w) :=
  (sha2Extend p (p.k.length - 16) x.toList.reverse).reverse

/-- One step with constant `k` and schedule word `wt` (R274). -/
def sha2Step {w : Nat} (p : Sha2Unit w) (s : Sha2Work w) (kw : BitVec w × BitVec w) : Sha2Work w :=
  let add := p.alu.add
  let t1 := add (add (add (add s.h (bigSigma p.alu p.bigSigma1 s.e)) (sha2Ch p.alu s.e s.f s.g)) kw.1) kw.2
  let t2 := add (bigSigma p.alu p.bigSigma0 s.a) (sha2Maj p.alu s.a s.b s.c)
  ⟨add t1 t2, s.a, s.b, s.c, add s.d t1, s.e, s.f, s.g⟩

/-- A SHA-2 compression: schedule, steps, feed-forward (R278, R288). -/
def sha2Block {w : Nat} (p : Sha2Unit w) (h : Vector (BitVec w) 8) (x : Vector (BitVec w) 16) :
    Vector (BitVec w) 8 :=
  let add := p.alu.add
  let v := (p.k.zip (sha2Schedule p x)).foldl (sha2Step p) ⟨h[0], h[1], h[2], h[3], h[4], h[5], h[6], h[7]⟩
  #v[add h[0] v.a, add h[1] v.b, add h[2] v.c, add h[3] v.d,
     add h[4] v.e, add h[5] v.f, add h[6] v.g, add h[7] v.h]

/-- SHA256_COMPRESS between the state registers and a block (30_encoding R95, 40_engine R123). -/
def sha256Unit (h : HRegs) (blk : List Byte) : HRegs :=
  writeWords h (sha2Block sha256Params (readWords 32 8 h) (blockWords .big 32 blk))

/-- SHA512_COMPRESS between the state registers and a block, for a value of P_NATIVE64. -/
def sha512Unit (native : Bool) (h : HRegs) (blk : List Byte) : HRegs :=
  writeWords h (sha2Block (sha512Params native) (readWords 64 8 h) (blockWords .big 64 blk))

/-- SHA256_COMPRESS by itself (R278). -/
def execSha256Compress (s : State) : Host.Outcome State Fault Refusal :=
  .next (unitDone { s with h := sha256Unit s.h s.ports.blk.toList })

/-- SHA512_COMPRESS by itself (R288). -/
def execSha512Compress (s : State) : Host.Outcome State Fault Refusal :=
  .next (unitDone { s with h := sha512Unit Config.native64 s.h s.ports.blk.toList })

end Sys2Proof.Machine
end

