-- ==== Sys2Proof/Machine/Engine.lean ====
section
/-!
DEFINITION. The streaming engine (40_engine): COMPRESS_BLOCK, the absorption of message bytes, finishing, and
the meanings of the six host commands. The checks come in the order of 60_exceptions R371.
-/

namespace Sys2Proof.Machine

/-- COMPRESS_BLOCK(blk, t, last) (R123): the unit CSEL selects, applied to the state registers; a reserved
CSEL raises E_UNIT_RESERVED. -/
def compressBlock (csel : BitVec 4) (blk : List Byte) (t : BitVec 128) (last : Bool) (h : HRegs) :
    Except ResultCode HRegs :=
  match decodeCsel csel with
  | .ok .md5Compress => .ok (md5Unit h blk)
  | .ok .rmd128Compress => .ok (rmd128Unit h blk)
  | .ok .rmd160Compress => .ok (rmd160Unit h blk)
  | .ok .rmd256Compress => .ok (rmd256Unit h blk)
  | .ok .rmd320Compress => .ok (rmd320Unit h blk)
  | .ok .sha1Compress => .ok (sha1Unit h blk)
  | .ok .sha256Compress => .ok (sha256Unit h blk)
  | .ok .sha512Compress => .ok (sha512Unit Config.native64 h blk)
  | .ok .blake2sCompress => .ok (blake2sUnit h blk t last)
  | .ok .blake2bCompress => .ok (blake2bUnit Config.native64 h blk t last)
  | _ => .error .unitReserved

/-! ## INIT -/

/-- INIT on a legal request (R120): every register takes its INIT value (10_state R38). LASTERR becomes OK
with the command's completion. -/
def initRegs (a : Alg) (nn : BitVec 7) (var : BitVec 1) (s : State) : State :=
  { s with
    alg := some a
    nn := nn
    variant := var
    h := a.initH nn
    count := 0
    pbuf := tab 128 fun _ => 0
    plen := 0
    fin := false
    dig := tab 64 fun _ => 0
    fatal := false }

/-- The algorithm an INIT request names, if its NNREQ is legal for it (R84, R85). -/
def requestedAlg (algid : BitVec 8) (nnreq : BitVec 7) : Option Alg :=
  match Alg.ofId algid with
  | some a => if a.nnLegal nnreq then some a else none
  | none => none

/-- INIT (R120). -/
def execInit (algid : BitVec 8) (nnreq : BitVec 7) (var : BitVec 1) (s : State) :
    Host.Outcome State Fault Refusal :=
  if s.payload.length = 0 then
    match requestedAlg algid nnreq with
    | some a => .next (accept [] (initRegs a (a.digestLen nnreq) var s))
    | none => .next (reject .unknownAlg s)
  else .next (reject .illegalCmd s)

/-! ## ADD -/

/-- Compress the full block held in PBUF, counting its bytes before or after (R122): BLAKE2's counter t is
COUNT with this block included. -/
def flushBlock (a : Alg) (s : State) : Except ResultCode State :=
  let count := s.count + BitVec.ofNat 64 a.desc.bs.bytes
  match compressBlock a.desc.csel (s.pbuf.toList.take a.desc.bs.bytes) (count.setWidth 128) false s.h with
  | .ok h => .ok { s with h := h, count := count, plen := 0 }
  | .error c => .error c

/-- `PBUF[PLEN] <- b; PLEN <- PLEN + 1` (R122). -/
def appendByte (b : Byte) (s : State) : State :=
  { s with pbuf := s.pbuf.setIfInBounds s.plen.toNat b, plen := s.plen + 1 }

/-- PLEN = BS: PBUF holds a full block. -/
def blockFull (a : Alg) (s : State) : Bool := s.plen.toNat == a.desc.bs.bytes

/-- One iteration of ADD's loop (R122): BLAKE compresses a held-back full block before it takes the next
byte; the other schemes compress a block as soon as it is full. -/
def absorbByte (a : Alg) (s : State) (b : Byte) : Except ResultCode State :=
  if a.desc.scheme = .blake then
    if blockFull a s then
      match flushBlock a s with
      | .ok s => .ok (appendByte b s)
      | .error c => .error c
    else .ok (appendByte b s)
  else
    let s := appendByte b s
    if blockFull a s then flushBlock a s else .ok s

/-- ADD's loop over its payload (R122). -/
def absorb (a : Alg) : List Byte → State → Except ResultCode State
  | [], s => .ok s
  | b :: bs, s =>
    match absorbByte a s b with
    | .ok s => absorb a bs s
    | .error c => .error c

/-- ADD (R122), with its checks in the order of 60_exceptions R371. -/
def execAdd (n : BitVec 24) (s : State) : Host.Outcome State Fault Refusal :=
  match checkSelected n.toNat s with
  | .error c => .next (reject c s)
  | .ok a =>
    if s.fin then .next (reject .finalized s)
    else if s.msgLen + n.toNat > Config.maxMsgBytes then .next (reject .lengthLimit s)
    else
      match absorb a s.payload s with
      | .ok s => .next (accept [] s)
      | .error c => .next (failFatal c s)

/-! ## FINISH -/

/-- Compress the `n` blocks of the tail in order (R124). -/
def compressTail (a : Alg) (t : BitVec 128) (last : Bool) : Nat → List Byte → HRegs → Except ResultCode HRegs
  | 0, _, h => .ok h
  | n + 1, tail, h =>
    match compressBlock a.desc.csel (tail.take a.desc.bs.bytes) t last h with
    | .ok h => compressTail a t last n (tail.drop a.desc.bs.bytes) h
    | .error c => .error c

/-- `DIG[0..NN) <- SERIALIZE(H)` (R124, 20_memory R64); the rest of DIG keeps its value. An NN
above the bytes SERIALIZE gives, in a state no command leaves, keeps the old DIG bytes from there up to NN: DESIGN
CHOICE, notes/assumptions/21.md. -/
def writeDigest (a : Alg) (s : State) : State :=
  let bytes := serialize a.desc.endian a.desc.width.bits a.desc.sw s.nn.toNat s.h
  { s with dig := tab 64 fun i => (bytes[i]?).getD (s.dig.toList.getD i 0) }

/-- The last assignments of FINISH (R124): the digest, `COUNT <- L; PLEN <- 0; PBUF <- 0; FIN <- 1`. -/
def sealMessage (a : Alg) (len : Nat) (h : HRegs) (s : State) : State :=
  { writeDigest a { s with h := h } with
    count := BitVec.ofNat 64 len
    plen := 0
    pbuf := tab 128 fun _ => 0
    fin := true }

/-- The body of FINISH after its checks (R124): nothing if FIN = 1; else pad, check the tail, compress it and
serialize. The BLAKE blocks are compressed with t = L and last = 1. -/
def finishBody (a : Alg) (s : State) : Except ResultCode State :=
  if s.fin then .ok s
  else
    let len := s.msgLen
    match padTail a.desc.scheme.padsel a.desc.bs s.pending len with
    | .error c => .error c
    | .ok tail =>
      if tail.length = 0 ∨ tail.length % a.desc.bs.bytes ≠ 0 then .error .padInternal
      else
        match compressTail a (BitVec.ofNat 128 len) (a.desc.scheme == .blake)
            (tail.length / a.desc.bs.bytes) tail s.h with
        | .ok h => .ok (sealMessage a len h s)
        | .error c => .error c

/-- FINISH, TOBIN and TOHEX differ only in the data they return from the finished state (R124 to R126). -/
def finishing (data : State → List Byte) (s : State) : Host.Outcome State Fault Refusal :=
  match checkSelected 0 s with
  | .error c => .next (reject c s)
  | .ok a =>
    match finishBody a s with
    | .ok s => .next (accept (data s) s)
    | .error c => .next (failFatal c s)

/-- `DIG[0..NN)`, a copy (R125, 20_memory R70). -/
def State.digest (s : State) : List Byte := s.dig.toList.take s.nn.toNat

/-- FINISH (R124). -/
def execFinish (s : State) : Host.Outcome State Fault Refusal := finishing (fun _ => []) s

/-- TOBIN (R125). -/
def execTobin (s : State) : Host.Outcome State Fault Refusal := finishing State.digest s

/-- TOHEX (R126). -/
def execTohex (s : State) : Host.Outcome State Fault Refusal := finishing (fun s => hexText s.digest) s

/-! ## STAT -/

/-- STAT (R127): the response carries the status word; no register is written unless the payload is not
empty. -/
def execStat (s : State) : Host.Outcome State Fault Refusal :=
  if s.payload.length = 0 then .next (respond .ok [] s) else .next (reject .illegalCmd s)

end Sys2Proof.Machine
end

