-- ==== Sys2Proof/Machine/Dispatch.lean ====
section
/-!
DEFINITION. exec: the meaning of each operation of the opcode table, one arm per constructor.
-/

namespace Sys2Proof.Machine

def exec (i : Instr) (s : State) : Host.Outcome State Fault Refusal :=
  match i with
  | .stat => Sys2Proof.Machine.execStat s
  | .init algid nnreq var => Sys2Proof.Machine.execInit algid nnreq var s
  | .add n => Sys2Proof.Machine.execAdd n s
  | .finish => Sys2Proof.Machine.execFinish s
  | .tobin => Sys2Proof.Machine.execTobin s
  | .tohex => Sys2Proof.Machine.execTohex s
  | .padMdLe => Sys2Proof.Machine.execPadMdLe s
  | .padMdBe => Sys2Proof.Machine.execPadMdBe s
  | .padBlake => Sys2Proof.Machine.execPadBlake s
  | .md5Compress => Sys2Proof.Machine.execMd5Compress s
  | .rmd128Compress => Sys2Proof.Machine.execRmd128Compress s
  | .rmd160Compress => Sys2Proof.Machine.execRmd160Compress s
  | .rmd256Compress => Sys2Proof.Machine.execRmd256Compress s
  | .rmd320Compress => Sys2Proof.Machine.execRmd320Compress s
  | .sha1Compress => Sys2Proof.Machine.execSha1Compress s
  | .sha256Compress => Sys2Proof.Machine.execSha256Compress s
  | .sha512Compress => Sys2Proof.Machine.execSha512Compress s
  | .blake2sCompress => Sys2Proof.Machine.execBlake2sCompress s
  | .blake2bCompress => Sys2Proof.Machine.execBlake2bCompress s
  | .w64Not => Sys2Proof.Machine.execW64Not s
  | .w64And => Sys2Proof.Machine.execW64And s
  | .w64Or => Sys2Proof.Machine.execW64Or s
  | .w64Xor => Sys2Proof.Machine.execW64Xor s
  | .w64Add => Sys2Proof.Machine.execW64Add s
  | .w64Rotr amt => Sys2Proof.Machine.execW64Rotr amt s
  | .w64Shr amt => Sys2Proof.Machine.execW64Shr amt s

end Sys2Proof.Machine
end

