-- ==== Sys2Proof/Machine/Fetch.lean ====
section
/-!
DEFINITION. What the engine does next: a waiting internal selector, else the host's oldest transaction, else
nothing (30_encoding R80, 60_exceptions R389). The block fetches no instruction from a memory (20_memory
R76).
-/

namespace Sys2Proof.Machine

/-- What the next step performs. -/
inductive Fetched where
  /-- no selector and no transaction is waiting -/
  | idle
  /-- the oldest transaction's command word has no instruction: E_ILLEGAL_CMD (R89) -/
  | illegalCommand
  /-- the waiting selector is reserved: E_UNIT_RESERVED (R92 to R94) -/
  | reservedSelector
  /-- an operation to execute -/
  | instr (i : Instr)
  deriving DecidableEq, Repr

/-- What the next step performs in this state. -/
def fetch (s : State) : Fetched :=
  match s.sel with
  | some sel =>
    match decodeSelector sel with
    | .ok i => .instr i
    | .error _ => .reservedSelector
  | none =>
    match s.inbox with
    | [] => .idle
    | tx :: _ =>
      match decodeCommand tx.cw with
      | .ok i => .instr i
      | .error _ => .illegalCommand

/-- Check 1 of the check order fails on the command word: the transaction is rejected (60_exceptions R371,
R372). -/
def rejectCommandWord (s : State) : State := reject .illegalCmd s

/-- A reserved selector reached a unit by itself (60_exceptions R377). -/
def rejectSelector (s : State) : State := unitReservedAlone s

/-- The transaction of a command word whose payload bytes are all 0: `N` bytes for an ADD (R86), none for
another command (R87). -/
def zeroPayloadTransaction (cw : BitVec 32) : Transaction :=
  match decodeCommand cw with
  | .ok (.add n) => ⟨cw, zeros n.toNat⟩
  | _ => ⟨cw, []⟩

/-- The state in which the next step performs the operation of an encoding: a command word becomes the oldest
transaction (with no selector waiting), a selector becomes the waiting one. notes/assumptions/5.md. -/
def placeEncoding (e : Encoding) (s : State) : State :=
  match e with
  | .command cw => { s with inbox := zeroPayloadTransaction cw :: s.inbox, sel := none }
  | .selector sel => { s with sel := some sel }

end Sys2Proof.Machine
end

