-- ==== Sys2Proof/Machine/Step.lean ====
section
/-!
DEFINITION. One step of the machine: one transaction, or one internal operation, or nothing to do
(30_encoding R80, 60_exceptions R389); and the placing of an opcode-table word where the next step finds it.
-/

namespace Sys2Proof.Machine

/-- One step. -/
def step (s : State) : Host.Outcome State Fault Refusal :=
  match fetch s with
  | .idle => .next s
  | .illegalCommand => .next (rejectCommandWord s)
  | .reservedSelector => .next (rejectSelector s)
  | .instr i => exec i s

/-- `s` with the operation of a word of spec/opcode_table.json placed where the next step performs it. -/
def State.withFetchWord (s : State) (nbits w : Nat) : State :=
  match tableEncoding nbits w with
  | some e => placeEncoding e s
  | none => s

end Sys2Proof.Machine
end

