-- ==== Sys2Proof/Safety.lean ====
section
/-!
DEFINITION. The terms claims are stated in: the invariants of 10_state R35, the digest of a whole message
defined without the engine (00_scope R13, 20_memory R64, 46_blake2 R319), what it is for the engine to have
absorbed a message, and the registers no command can observe (10_state R34).
-/

namespace Sys2Proof.Machine

/-! ## Invariants -/

/-- The registers hold their power-on values (10_state R38), apart from LASTERR. -/
structure PowerOnRegs (s : State) : Prop where
  nn : s.nn = 0
  variant : s.variant = 0
  h : s.h = tab 10 fun _ => 0
  count : s.count = 0
  pbuf : s.pbuf = tab 128 fun _ => 0
  plen : s.plen = 0
  fin : s.fin = false
  dig : s.dig = tab 64 fun _ => 0

/-- The invariants of a computation of algorithm `a` between commands (10_state R22, R24, R26, R35). -/
structure MessageInv (a : Alg) (s : State) : Prop where
  /-- NN is a legal digest length of the algorithm (R22). -/
  nnLegal : s.nn ≠ 0 ∧ a.nnLegal s.nn = true
  /-- `COUNT mod BS = 0` while FIN = 0 (R35.1). -/
  countMultiple : s.fin = false → s.count.toNat % a.desc.bs.bytes = 0
  /-- `PLEN <= BS - 1`, or `PLEN <= BS` for BLAKE (R35.2). -/
  plenBound : if a.desc.scheme = .blake then s.plen.toNat ≤ a.desc.bs.bytes else s.plen.toNat < a.desc.bs.bytes
  /-- BLAKE holds no pending byte only for the empty message (41_padding R162). -/
  heldBack : a.desc.scheme = .blake → s.fin = false → s.plen = 0 → s.count = 0
  /-- `COUNT + PLEN <= P_MAX_MSG_BYTES` (R35.3). -/
  lengthBound : s.msgLen ≤ Config.maxMsgBytes
  /-- `H[i][63:32] = 0` when W = 32 (R35.4). -/
  hNarrow : a.desc.width = .w32 → ∀ i < 10, (hReg s.h i).extractLsb' 32 32 = 0
  /-- `H[i] = 0` for i >= SW (R35.4). -/
  hUnused : ∀ i < 10, a.desc.sw ≤ i → hReg s.h i = 0
  /-- `PLEN = 0` while FIN = 1 (R35.5). -/
  finished : s.fin = true → s.plen = 0
  /-- `DIG[0..NN)` is the serialized state while FIN = 1 (R35.5, 40_engine R124). -/
  digest : s.fin = true →
    s.digest = serialize a.desc.endian a.desc.width.bits a.desc.sw s.nn.toNat s.h
  /-- DIG is 0 until FINISH writes it (10_state R28). -/
  digClear : s.fin = false → s.dig = tab 64 fun _ => 0

/-- The invariant of the machine between commands: no internal selector is waiting (30_encoding R91), and
while FATAL = 0 the registers satisfy R35, or hold their power-on values when no algorithm is selected. -/
def Inv (s : State) : Prop :=
  s.sel = none ∧
  (s.fatal = false →
    match s.alg with
    | none => PowerOnRegs s
    | some a => MessageInv a s)

/-! ## Registers and rejection -/

/-- The eleven registers of 10_state R20, as one value. -/
structure Regs where
  alg : Option Alg
  nn : BitVec 7
  variant : BitVec 1
  h : HRegs
  count : Word64
  pbuf : Vector Byte 128
  plen : BitVec 8
  fin : Bool
  dig : Vector Byte 64
  fatal : Bool
  lasterr : ResultCode
  deriving DecidableEq, Repr

/-- The registers of a state. -/
def State.regs (s : State) : Regs :=
  ⟨s.alg, s.nn, s.variant, s.h, s.count, s.pbuf, s.plen, s.fin, s.dig, s.fatal, s.lasterr⟩

/-- `t` is the state after the transaction under execution in `s` was rejected with `code` (60_exceptions
R372): LASTERR holds the code, the response has it with no data, and nothing else has changed. -/
def RejectedWith (code : ResultCode) (s t : State) : Prop :=
  t.regs = { s.regs with lasterr := code } ∧
  t.inbox = s.inbox.tail ∧ t.outbox = s.outbox ++ [⟨code, t.status, []⟩] ∧
  t.sel = s.sel ∧ t.ports = s.ports ∧ t.draws = s.draws

/-- `t` is a state after the transaction under execution in `s` was answered with `code` and `data`: one
response, the transaction gone, and the model's other fields as before (30_encoding R80, R82). -/
def Answered (code : ResultCode) (data : List Byte) (s t : State) : Prop :=
  t.inbox = s.inbox.tail ∧ t.outbox = s.outbox ++ [⟨code, t.status, data⟩] ∧
  t.sel = s.sel ∧ t.ports = s.ports ∧ t.draws = s.draws

/-! ## The digest of a whole message -/

/-- One compression by the algorithm's unit (40_engine R123); its CSEL is never reserved (30_encoding
R93). -/
def Alg.compress (a : Alg) (blk : List Byte) (t : Nat) (last : Bool) (h : HRegs) : HRegs :=
  match compressBlock a.desc.csel blk (BitVec.ofNat 128 t) last h with
  | .ok h => h
  | .error _ => h

/-- The state registers after the first `n` blocks of `m`, none of them the last; `c` bytes came before. -/
def Alg.fullBlocks (a : Alg) : Nat → Nat → List Byte → HRegs → HRegs
  | 0, _, _, h => h
  | n + 1, c, m, h =>
    a.fullBlocks n (c + a.desc.bs.bytes) (m.drop a.desc.bs.bytes)
      (a.compress (m.take a.desc.bs.bytes) (c + a.desc.bs.bytes) false h)

/-- The whole message padded by the algorithm's Merkle–Damgård scheme (41_padding R160, R161). -/
def Alg.padded (a : Alg) (m : List Byte) : List Byte :=
  match a.desc.scheme with
  | .mdLe => padMdLe a.desc.bs m m.length
  | .mdBe => padMdBe a.desc.bs m m.length
  | .blake => m

/-- The final state registers of a message (40_engine R124, 46_blake2 R319): for a Merkle–Damgård algorithm
every block of the padded message is compressed; for BLAKE2 all blocks but the last have last = 0, and the
last, zero-padded, has last = 1 and t = L. -/
def Alg.finalH (a : Alg) (nn : BitVec 7) (m : List Byte) : HRegs :=
  let bs := a.desc.bs.bytes
  if a.desc.scheme = .blake then
    let k := (m.length - 1) / bs
    a.compress (padBlake a.desc.bs (m.drop (k * bs))) m.length true (a.fullBlocks k 0 m (a.initH nn))
  else a.fullBlocks ((a.padded m).length / bs) 0 (a.padded m) (a.initH nn)

/-- The digest of a message (20_memory R64). -/
def Alg.digestOf (a : Alg) (nn : BitVec 7) (m : List Byte) : List Byte :=
  serialize a.desc.endian a.desc.width.bits a.desc.sw nn.toNat (a.finalH nn m)

/-- How many blocks of a message of `len` bytes ADD has compressed (70_reset R409): every full one, but
BLAKE holds back a full last block (40_engine R122). -/
def Alg.blocksAbsorbed (a : Alg) (len : Nat) : Nat :=
  if a.desc.scheme = .blake then (len - 1) / a.desc.bs.bytes else len / a.desc.bs.bytes

/-- The engine has absorbed exactly the message `m` of algorithm `a` and digest length `size`, and is
not finished (10_state R25, R26, 20_memory R62). -/
structure Absorbed (a : Alg) (size : BitVec 7) (m : List Byte) (s : State) : Prop where
  alg : s.alg = some a
  nn : s.nn = size
  fin : s.fin = false
  fatal : s.fatal = false
  length : m.length ≤ Config.maxMsgBytes
  count : s.count.toNat = a.blocksAbsorbed m.length * a.desc.bs.bytes
  plen : s.plen.toNat = m.length - a.blocksAbsorbed m.length * a.desc.bs.bytes
  pending : s.pending = m.drop (a.blocksAbsorbed m.length * a.desc.bs.bytes)
  h : s.h = a.fullBlocks (a.blocksAbsorbed m.length) 0 m (a.initH size)

/-! ## What cannot be observed -/

/-- Two states that differ only in PBUF[PLEN..127], H[SW..9] and DIG[NN..63] (10_state R34). -/
structure SameObservable (s t : State) : Prop where
  alg : s.alg = t.alg
  nn : s.nn = t.nn
  variant : s.variant = t.variant
  h : ∀ a, s.alg = some a → ∀ i < a.desc.sw, hReg s.h i = hReg t.h i
  count : s.count = t.count
  pbuf : s.pending = t.pending
  plen : s.plen = t.plen
  fin : s.fin = t.fin
  dig : s.digest = t.digest
  fatal : s.fatal = t.fatal
  lasterr : s.lasterr = t.lasterr
  inbox : s.inbox = t.inbox
  outbox : s.outbox = t.outbox
  sel : s.sel = t.sel
  ports : s.ports = t.ports
  draws : s.draws = t.draws

/-- A transaction with the VAR bit of an INIT word cleared (30_encoding R84). -/
def Transaction.forgetVar (tx : Transaction) : Transaction :=
  if opField tx.cw = 1 then { tx with cw := tx.cw &&& 0xFFFF7FFF#32 } else tx

/-- A response with STATUS[15] cleared (10_state R33). -/
def Response.forgetVar (r : Response) : Response := { r with status := r.status &&& 0xFFFF7FFF#32 }

/-- A state with every trace of the implementation variant cleared: VARIANT, the VAR bits of waiting INITs,
and STATUS[15] of the responses (40_engine R121). -/
def State.forgetVar (s : State) : State :=
  { s with variant := 0, inbox := s.inbox.map (·.forgetVar), outbox := s.outbox.map (·.forgetVar) }

end Sys2Proof.Machine
end

