-- ==== Sys2Proof/Laws/State.lean ====
section
/-!
SUPPORT. One lemma per field of State per update, each true by definition, so that no proof unfolds an update.
-/

namespace Sys2Proof.Machine

variable (s : State)

/-! ## setLastErr -/

@[simp] theorem setLastErr_alg (code : ResultCode) : (setLastErr code s).alg = s.alg := rfl
@[simp] theorem setLastErr_nn (code : ResultCode) : (setLastErr code s).nn = s.nn := rfl
@[simp] theorem setLastErr_variant (code : ResultCode) : (setLastErr code s).variant = s.variant := rfl
@[simp] theorem setLastErr_h (code : ResultCode) : (setLastErr code s).h = s.h := rfl
@[simp] theorem setLastErr_count (code : ResultCode) : (setLastErr code s).count = s.count := rfl
@[simp] theorem setLastErr_pbuf (code : ResultCode) : (setLastErr code s).pbuf = s.pbuf := rfl
@[simp] theorem setLastErr_plen (code : ResultCode) : (setLastErr code s).plen = s.plen := rfl
@[simp] theorem setLastErr_fin (code : ResultCode) : (setLastErr code s).fin = s.fin := rfl
@[simp] theorem setLastErr_dig (code : ResultCode) : (setLastErr code s).dig = s.dig := rfl
@[simp] theorem setLastErr_fatal (code : ResultCode) : (setLastErr code s).fatal = s.fatal := rfl
@[simp] theorem setLastErr_lasterr (code : ResultCode) : (setLastErr code s).lasterr = code := rfl
@[simp] theorem setLastErr_inbox (code : ResultCode) : (setLastErr code s).inbox = s.inbox := rfl
@[simp] theorem setLastErr_outbox (code : ResultCode) : (setLastErr code s).outbox = s.outbox := rfl
@[simp] theorem setLastErr_sel (code : ResultCode) : (setLastErr code s).sel = s.sel := rfl
@[simp] theorem setLastErr_ports (code : ResultCode) : (setLastErr code s).ports = s.ports := rfl
@[simp] theorem setLastErr_draws (code : ResultCode) : (setLastErr code s).draws = s.draws := rfl

/-! ## respond -/

@[simp] theorem respond_alg (code : ResultCode) (data : List Byte) : (respond code data s).alg = s.alg := rfl
@[simp] theorem respond_nn (code : ResultCode) (data : List Byte) : (respond code data s).nn = s.nn := rfl
@[simp] theorem respond_variant (code : ResultCode) (data : List Byte) : (respond code data s).variant = s.variant := rfl
@[simp] theorem respond_h (code : ResultCode) (data : List Byte) : (respond code data s).h = s.h := rfl
@[simp] theorem respond_count (code : ResultCode) (data : List Byte) : (respond code data s).count = s.count := rfl
@[simp] theorem respond_pbuf (code : ResultCode) (data : List Byte) : (respond code data s).pbuf = s.pbuf := rfl
@[simp] theorem respond_plen (code : ResultCode) (data : List Byte) : (respond code data s).plen = s.plen := rfl
@[simp] theorem respond_fin (code : ResultCode) (data : List Byte) : (respond code data s).fin = s.fin := rfl
@[simp] theorem respond_dig (code : ResultCode) (data : List Byte) : (respond code data s).dig = s.dig := rfl
@[simp] theorem respond_fatal (code : ResultCode) (data : List Byte) : (respond code data s).fatal = s.fatal := rfl
@[simp] theorem respond_lasterr (code : ResultCode) (data : List Byte) : (respond code data s).lasterr = s.lasterr := rfl
@[simp] theorem respond_inbox (code : ResultCode) (data : List Byte) : (respond code data s).inbox = s.inbox.tail := rfl
@[simp] theorem respond_outbox (code : ResultCode) (data : List Byte) : (respond code data s).outbox = s.outbox ++ [⟨code, s.status, data⟩] := rfl
@[simp] theorem respond_sel (code : ResultCode) (data : List Byte) : (respond code data s).sel = s.sel := rfl
@[simp] theorem respond_ports (code : ResultCode) (data : List Byte) : (respond code data s).ports = s.ports := rfl
@[simp] theorem respond_draws (code : ResultCode) (data : List Byte) : (respond code data s).draws = s.draws := rfl

/-! ## accept -/

@[simp] theorem accept_alg (data : List Byte) : (accept data s).alg = s.alg := rfl
@[simp] theorem accept_nn (data : List Byte) : (accept data s).nn = s.nn := rfl
@[simp] theorem accept_variant (data : List Byte) : (accept data s).variant = s.variant := rfl
@[simp] theorem accept_h (data : List Byte) : (accept data s).h = s.h := rfl
@[simp] theorem accept_count (data : List Byte) : (accept data s).count = s.count := rfl
@[simp] theorem accept_pbuf (data : List Byte) : (accept data s).pbuf = s.pbuf := rfl
@[simp] theorem accept_plen (data : List Byte) : (accept data s).plen = s.plen := rfl
@[simp] theorem accept_fin (data : List Byte) : (accept data s).fin = s.fin := rfl
@[simp] theorem accept_dig (data : List Byte) : (accept data s).dig = s.dig := rfl
@[simp] theorem accept_fatal (data : List Byte) : (accept data s).fatal = s.fatal := rfl
@[simp] theorem accept_lasterr (data : List Byte) : (accept data s).lasterr = .ok := rfl
@[simp] theorem accept_inbox (data : List Byte) : (accept data s).inbox = s.inbox.tail := rfl
@[simp] theorem accept_outbox (data : List Byte) : (accept data s).outbox = s.outbox ++ [⟨.ok, (setLastErr .ok s).status, data⟩] := rfl
@[simp] theorem accept_sel (data : List Byte) : (accept data s).sel = s.sel := rfl
@[simp] theorem accept_ports (data : List Byte) : (accept data s).ports = s.ports := rfl
@[simp] theorem accept_draws (data : List Byte) : (accept data s).draws = s.draws := rfl

/-! ## reject -/

@[simp] theorem reject_alg (code : ResultCode) : (reject code s).alg = s.alg := rfl
@[simp] theorem reject_nn (code : ResultCode) : (reject code s).nn = s.nn := rfl
@[simp] theorem reject_variant (code : ResultCode) : (reject code s).variant = s.variant := rfl
@[simp] theorem reject_h (code : ResultCode) : (reject code s).h = s.h := rfl
@[simp] theorem reject_count (code : ResultCode) : (reject code s).count = s.count := rfl
@[simp] theorem reject_pbuf (code : ResultCode) : (reject code s).pbuf = s.pbuf := rfl
@[simp] theorem reject_plen (code : ResultCode) : (reject code s).plen = s.plen := rfl
@[simp] theorem reject_fin (code : ResultCode) : (reject code s).fin = s.fin := rfl
@[simp] theorem reject_dig (code : ResultCode) : (reject code s).dig = s.dig := rfl
@[simp] theorem reject_fatal (code : ResultCode) : (reject code s).fatal = s.fatal := rfl
@[simp] theorem reject_lasterr (code : ResultCode) : (reject code s).lasterr = code := rfl
@[simp] theorem reject_inbox (code : ResultCode) : (reject code s).inbox = s.inbox.tail := rfl
@[simp] theorem reject_outbox (code : ResultCode) : (reject code s).outbox = s.outbox ++ [⟨code, (setLastErr code s).status, []⟩] := rfl
@[simp] theorem reject_sel (code : ResultCode) : (reject code s).sel = s.sel := rfl
@[simp] theorem reject_ports (code : ResultCode) : (reject code s).ports = s.ports := rfl
@[simp] theorem reject_draws (code : ResultCode) : (reject code s).draws = s.draws := rfl

/-! ## unitDone -/

@[simp] theorem unitDone_alg : (unitDone s).alg = s.alg := rfl
@[simp] theorem unitDone_nn : (unitDone s).nn = s.nn := rfl
@[simp] theorem unitDone_variant : (unitDone s).variant = s.variant := rfl
@[simp] theorem unitDone_h : (unitDone s).h = s.h := rfl
@[simp] theorem unitDone_count : (unitDone s).count = s.count := rfl
@[simp] theorem unitDone_pbuf : (unitDone s).pbuf = s.pbuf := rfl
@[simp] theorem unitDone_plen : (unitDone s).plen = s.plen := rfl
@[simp] theorem unitDone_fin : (unitDone s).fin = s.fin := rfl
@[simp] theorem unitDone_dig : (unitDone s).dig = s.dig := rfl
@[simp] theorem unitDone_fatal : (unitDone s).fatal = s.fatal := rfl
@[simp] theorem unitDone_lasterr : (unitDone s).lasterr = s.lasterr := rfl
@[simp] theorem unitDone_inbox : (unitDone s).inbox = s.inbox := rfl
@[simp] theorem unitDone_outbox : (unitDone s).outbox = s.outbox := rfl
@[simp] theorem unitDone_sel : (unitDone s).sel = none := rfl
@[simp] theorem unitDone_ports : (unitDone s).ports = s.ports := rfl
@[simp] theorem unitDone_draws : (unitDone s).draws = s.draws := rfl

/-! ## initRegs -/

@[simp] theorem initRegs_alg (a : Alg) (k : BitVec 7) (v : BitVec 1) : (initRegs a k v s).alg = some a := rfl
@[simp] theorem initRegs_nn (a : Alg) (k : BitVec 7) (v : BitVec 1) : (initRegs a k v s).nn = k := rfl
@[simp] theorem initRegs_variant (a : Alg) (k : BitVec 7) (v : BitVec 1) : (initRegs a k v s).variant = v := rfl
@[simp] theorem initRegs_h (a : Alg) (k : BitVec 7) (v : BitVec 1) : (initRegs a k v s).h = a.initH k := rfl
@[simp] theorem initRegs_count (a : Alg) (k : BitVec 7) (v : BitVec 1) : (initRegs a k v s).count = 0 := rfl
@[simp] theorem initRegs_pbuf (a : Alg) (k : BitVec 7) (v : BitVec 1) : (initRegs a k v s).pbuf = tab 128 fun _ => 0 := rfl
@[simp] theorem initRegs_plen (a : Alg) (k : BitVec 7) (v : BitVec 1) : (initRegs a k v s).plen = 0 := rfl
@[simp] theorem initRegs_fin (a : Alg) (k : BitVec 7) (v : BitVec 1) : (initRegs a k v s).fin = false := rfl
@[simp] theorem initRegs_dig (a : Alg) (k : BitVec 7) (v : BitVec 1) : (initRegs a k v s).dig = tab 64 fun _ => 0 := rfl
@[simp] theorem initRegs_fatal (a : Alg) (k : BitVec 7) (v : BitVec 1) : (initRegs a k v s).fatal = false := rfl
@[simp] theorem initRegs_lasterr (a : Alg) (k : BitVec 7) (v : BitVec 1) : (initRegs a k v s).lasterr = s.lasterr := rfl
@[simp] theorem initRegs_inbox (a : Alg) (k : BitVec 7) (v : BitVec 1) : (initRegs a k v s).inbox = s.inbox := rfl
@[simp] theorem initRegs_outbox (a : Alg) (k : BitVec 7) (v : BitVec 1) : (initRegs a k v s).outbox = s.outbox := rfl
@[simp] theorem initRegs_sel (a : Alg) (k : BitVec 7) (v : BitVec 1) : (initRegs a k v s).sel = s.sel := rfl
@[simp] theorem initRegs_ports (a : Alg) (k : BitVec 7) (v : BitVec 1) : (initRegs a k v s).ports = s.ports := rfl
@[simp] theorem initRegs_draws (a : Alg) (k : BitVec 7) (v : BitVec 1) : (initRegs a k v s).draws = s.draws := rfl

/-! ## appendByte -/

@[simp] theorem appendByte_alg (b : Byte) : (appendByte b s).alg = s.alg := rfl
@[simp] theorem appendByte_nn (b : Byte) : (appendByte b s).nn = s.nn := rfl
@[simp] theorem appendByte_variant (b : Byte) : (appendByte b s).variant = s.variant := rfl
@[simp] theorem appendByte_h (b : Byte) : (appendByte b s).h = s.h := rfl
@[simp] theorem appendByte_count (b : Byte) : (appendByte b s).count = s.count := rfl
@[simp] theorem appendByte_pbuf (b : Byte) : (appendByte b s).pbuf = s.pbuf.setIfInBounds s.plen.toNat b := rfl
@[simp] theorem appendByte_plen (b : Byte) : (appendByte b s).plen = s.plen + 1 := rfl
@[simp] theorem appendByte_fin (b : Byte) : (appendByte b s).fin = s.fin := rfl
@[simp] theorem appendByte_dig (b : Byte) : (appendByte b s).dig = s.dig := rfl
@[simp] theorem appendByte_fatal (b : Byte) : (appendByte b s).fatal = s.fatal := rfl
@[simp] theorem appendByte_lasterr (b : Byte) : (appendByte b s).lasterr = s.lasterr := rfl
@[simp] theorem appendByte_inbox (b : Byte) : (appendByte b s).inbox = s.inbox := rfl
@[simp] theorem appendByte_outbox (b : Byte) : (appendByte b s).outbox = s.outbox := rfl
@[simp] theorem appendByte_sel (b : Byte) : (appendByte b s).sel = s.sel := rfl
@[simp] theorem appendByte_ports (b : Byte) : (appendByte b s).ports = s.ports := rfl
@[simp] theorem appendByte_draws (b : Byte) : (appendByte b s).draws = s.draws := rfl

/-! ## sealMessage -/

@[simp] theorem sealMessage_alg (a : Alg) (len : Nat) (h : HRegs) : (sealMessage a len h s).alg = s.alg := rfl
@[simp] theorem sealMessage_nn (a : Alg) (len : Nat) (h : HRegs) : (sealMessage a len h s).nn = s.nn := rfl
@[simp] theorem sealMessage_variant (a : Alg) (len : Nat) (h : HRegs) : (sealMessage a len h s).variant = s.variant := rfl
@[simp] theorem sealMessage_h (a : Alg) (len : Nat) (h : HRegs) : (sealMessage a len h s).h = h := rfl
@[simp] theorem sealMessage_count (a : Alg) (len : Nat) (h : HRegs) : (sealMessage a len h s).count = BitVec.ofNat 64 len := rfl
@[simp] theorem sealMessage_pbuf (a : Alg) (len : Nat) (h : HRegs) : (sealMessage a len h s).pbuf = tab 128 fun _ => 0 := rfl
@[simp] theorem sealMessage_plen (a : Alg) (len : Nat) (h : HRegs) : (sealMessage a len h s).plen = 0 := rfl
@[simp] theorem sealMessage_fin (a : Alg) (len : Nat) (h : HRegs) : (sealMessage a len h s).fin = true := rfl
@[simp] theorem sealMessage_dig (a : Alg) (len : Nat) (h : HRegs) : (sealMessage a len h s).dig = (writeDigest a { s with h := h }).dig := rfl
@[simp] theorem sealMessage_fatal (a : Alg) (len : Nat) (h : HRegs) : (sealMessage a len h s).fatal = s.fatal := rfl
@[simp] theorem sealMessage_lasterr (a : Alg) (len : Nat) (h : HRegs) : (sealMessage a len h s).lasterr = s.lasterr := rfl
@[simp] theorem sealMessage_inbox (a : Alg) (len : Nat) (h : HRegs) : (sealMessage a len h s).inbox = s.inbox := rfl
@[simp] theorem sealMessage_outbox (a : Alg) (len : Nat) (h : HRegs) : (sealMessage a len h s).outbox = s.outbox := rfl
@[simp] theorem sealMessage_sel (a : Alg) (len : Nat) (h : HRegs) : (sealMessage a len h s).sel = s.sel := rfl
@[simp] theorem sealMessage_ports (a : Alg) (len : Nat) (h : HRegs) : (sealMessage a len h s).ports = s.ports := rfl
@[simp] theorem sealMessage_draws (a : Alg) (len : Nat) (h : HRegs) : (sealMessage a len h s).draws = s.draws := rfl

/-! ## drawUnspecified -/

@[simp] theorem drawUnspecified_alg : (drawUnspecified s).alg = s.alg := rfl
@[simp] theorem drawUnspecified_nn : (drawUnspecified s).nn = s.nn := rfl
@[simp] theorem drawUnspecified_variant : (drawUnspecified s).variant = s.variant := rfl
@[simp] theorem drawUnspecified_h : (drawUnspecified s).h = tab 10 (Config.freeH s.draws) := rfl
@[simp] theorem drawUnspecified_count : (drawUnspecified s).count = Config.freeCount s.draws := rfl
@[simp] theorem drawUnspecified_pbuf : (drawUnspecified s).pbuf = tab 128 (Config.freePbuf s.draws) := rfl
@[simp] theorem drawUnspecified_plen : (drawUnspecified s).plen = Config.freePlen s.draws := rfl
@[simp] theorem drawUnspecified_fin : (drawUnspecified s).fin = s.fin := rfl
@[simp] theorem drawUnspecified_dig : (drawUnspecified s).dig = tab 64 (Config.freeDig s.draws) := rfl
@[simp] theorem drawUnspecified_fatal : (drawUnspecified s).fatal = s.fatal := rfl
@[simp] theorem drawUnspecified_lasterr : (drawUnspecified s).lasterr = s.lasterr := rfl
@[simp] theorem drawUnspecified_inbox : (drawUnspecified s).inbox = s.inbox := rfl
@[simp] theorem drawUnspecified_outbox : (drawUnspecified s).outbox = s.outbox := rfl
@[simp] theorem drawUnspecified_sel : (drawUnspecified s).sel = s.sel := rfl
@[simp] theorem drawUnspecified_ports : (drawUnspecified s).ports = s.ports := rfl
@[simp] theorem drawUnspecified_draws : (drawUnspecified s).draws = s.draws + 1 := rfl

/-! ## setFatal: the fields that do not depend on which failure it is -/

@[simp] theorem setFatal_fatal (code : ResultCode) : (setFatal code s).fatal = true := rfl
@[simp] theorem setFatal_lasterr (code : ResultCode) : (setFatal code s).lasterr = code := rfl
@[simp] theorem setFatal_alg (code : ResultCode) : (setFatal code s).alg = s.alg := by
  simp only [setFatal]; split <;> rfl
@[simp] theorem setFatal_nn (code : ResultCode) : (setFatal code s).nn = s.nn := by
  simp only [setFatal]; split <;> rfl
@[simp] theorem setFatal_variant (code : ResultCode) : (setFatal code s).variant = s.variant := by
  simp only [setFatal]; split <;> rfl
@[simp] theorem setFatal_fin (code : ResultCode) : (setFatal code s).fin = s.fin := by
  simp only [setFatal]; split <;> rfl
@[simp] theorem setFatal_inbox (code : ResultCode) : (setFatal code s).inbox = s.inbox := by
  simp only [setFatal]; split <;> rfl
@[simp] theorem setFatal_outbox (code : ResultCode) : (setFatal code s).outbox = s.outbox := by
  simp only [setFatal]; split <;> rfl
@[simp] theorem setFatal_sel (code : ResultCode) : (setFatal code s).sel = s.sel := by
  simp only [setFatal]; split <;> rfl
@[simp] theorem setFatal_ports (code : ResultCode) : (setFatal code s).ports = s.ports := by
  simp only [setFatal]; split <;> rfl

/-! ## What a response does not change -/

@[simp] theorem respond_status (code : ResultCode) (data : List Byte) :
    (respond code data s).status = s.status := rfl
@[simp] theorem respond_regs (code : ResultCode) (data : List Byte) : (respond code data s).regs = s.regs := rfl
@[simp] theorem setLastErr_regs (code : ResultCode) :
    (setLastErr code s).regs = { s.regs with lasterr := code } := rfl
@[simp] theorem unitDone_regs : (unitDone s).regs = s.regs := rfl
@[simp] theorem respond_pending (code : ResultCode) (data : List Byte) :
    (respond code data s).pending = s.pending := rfl
@[simp] theorem respond_digest (code : ResultCode) (data : List Byte) :
    (respond code data s).digest = s.digest := rfl
@[simp] theorem setLastErr_pending (code : ResultCode) : (setLastErr code s).pending = s.pending := rfl
@[simp] theorem setLastErr_digest (code : ResultCode) : (setLastErr code s).digest = s.digest := rfl

end Sys2Proof.Machine
end

