-- ==== Sys2Proof/Laws/Words.lean ====
section
/-!
SUPPORT. The operand forms: tables, state registers read and written, byte sequences and their lengths.
-/

namespace Sys2Proof.Machine

/-! ## Tables and state registers -/

@[simp] theorem tab_getElem {α : Type} {n : Nat} (f : Nat → α) (i : Nat) (hi : i < n) :
    (tab n f)[i] = f i := by
  simp [tab]

theorem tab_toList {α : Type} (n : Nat) (f : Nat → α) : (tab n f).toList = (List.range n).map f := by
  simp [tab, Vector.toList]

theorem tab_getD {α : Type} (n : Nat) (f : Nat → α) (i : Nat) (d : α) :
    (tab n f).toList.getD i d = if i < n then f i else d := by
  rw [tab_toList, List.getD_eq_getElem?_getD]
  by_cases h : i < n <;> simp [h]

theorem vector_ext_getD {α : Type} {n : Nat} (d : α) {u v : Vector α n}
    (h : ∀ i < n, u.toList.getD i d = v.toList.getD i d) : u = v := by
  ext i hi
  have := h i hi
  simpa [List.getD_eq_getElem?_getD, hi] using this

theorem vector_getD {α : Type} {n : Nat} (v : Vector α n) (d : α) (i : Nat) (hi : i < n) :
    v.toList.getD i d = v[i] := by
  simp [List.getD_eq_getElem?_getD, hi]

@[simp] theorem hReg_tab (f : Nat → Word64) (i : Nat) : hReg (tab 10 f) i = if i < 10 then f i else 0 :=
  tab_getD 10 f i 0

theorem hRegs_ext {u v : HRegs} (h : ∀ i < 10, hReg u i = hReg v i) : u = v := vector_ext_getD 0 h

theorem hReg_eq_getElem (h : HRegs) (i : Nat) (hi : i < 10) : hReg h i = h[i] := vector_getD h 0 i hi

@[simp] theorem readWords_getElem (w n : Nat) (h : HRegs) (i : Nat) (hi : i < n) :
    (readWords w n h)[i] = (hReg h i).setWidth w := by
  simp [readWords]

theorem readWords_congr {w n : Nat} {h h' : HRegs} (e : ∀ i < n, hReg h i = hReg h' i) :
    readWords w n h = readWords w n h' := by
  ext i hi
  simp [e i hi]

theorem hReg_writeWords {w n : Nat} (h : HRegs) (v : Vector (BitVec w) n) (i : Nat) (hi : i < 10) :
    hReg (writeWords h v) i = if i < n then (v.toList.getD i 0).setWidth 64 else hReg h i := by
  simp [writeWords, hi]

@[simp] theorem blockWords_getElem (e : Endian) (w : Nat) (blk : List Byte) (j : Nat) (hj : j < 16) :
    (blockWords e w blk)[j] = endianWord e w blk (j * (w / 8)) := by
  simp [blockWords]

/-! ## Rotations -/

/-- R9's rotation to the left is BitVec's, for the amounts it is defined for. -/
theorem rotl_eq_rotateLeft {w : Nat} (a : BitVec w) (n : Nat) (h : n < w) : rotl a n = a.rotateLeft n := by
  rw [rotl, BitVec.rotateLeft_def, Nat.mod_eq_of_lt h]

/-- R9's rotation to the right is BitVec's, for the amounts it is defined for. -/
theorem rotr_eq_rotateRight {w : Nat} (a : BitVec w) (n : Nat) (h : n < w) : rotr a n = a.rotateRight n := by
  rw [rotr, BitVec.rotateRight_def, Nat.mod_eq_of_lt h]

/-! ## Byte sequences -/

@[simp] theorem zeros_length (n : Nat) : (zeros n).length = n := List.length_replicate

@[simp] theorem bytesLe_length (x n : Nat) : (bytesLe x n).length = n := by
  induction n generalizing x with
  | zero => rfl
  | succ n ih => simp [bytesLe, ih]

@[simp] theorem bytesBe_length (x n : Nat) : (bytesBe x n).length = n := by simp [bytesBe]

@[simp] theorem endianBytes_length (e : Endian) (x n : Nat) : (endianBytes e x n).length = n := by
  cases e <;> simp [endianBytes]

/-- A number survives its little-endian encoding, as far as the bytes reach (00_scope R10). -/
theorem leNat_bytesLe (x n : Nat) : leNat (bytesLe x n) = x % 256 ^ n := by
  induction n generalizing x with
  | zero => simp [bytesLe, leNat, Nat.mod_one]
  | succ n ih =>
    have e : x % 256 ^ (n + 1) = x % 256 + 256 * (x / 256 % 256 ^ n) := by
      rw [Nat.pow_succ, Nat.mul_comm, Nat.mod_mul]
    rw [e, bytesLe, leNat, ih, BitVec.toNat_ofNat]

theorem flatMap_length_const {α β : Type} (l : List α) (f : α → List β) (k : Nat)
    (h : ∀ a ∈ l, (f a).length = k) : (l.flatMap f).length = l.length * k := by
  induction l with
  | nil => simp
  | cons a l ih =>
    rw [List.flatMap_cons, List.length_append, h a (by simp), ih fun b hb => h b (by simp [hb])]
    simp [Nat.succ_mul, Nat.add_comm]

@[simp] theorem serialize_length (e : Endian) (w sw nn : Nat) (h : HRegs) :
    (serialize e w sw nn h).length = min nn (sw * (w / 8)) := by
  rw [serialize, List.length_take, flatMap_length_const _ _ (w / 8) (by simp)]
  simp

theorem serialize_congr {e : Endian} {w sw nn : Nat} {h h' : HRegs}
    (c : ∀ i < sw, hReg h i = hReg h' i) : serialize e w sw nn h = serialize e w sw nn h' := by
  unfold serialize
  congr 1
  apply List.flatMap_congr
  intro i hi
  rw [c i (List.mem_range.mp hi)]

@[simp] theorem hexText_length (l : List Byte) : (hexText l).length = 2 * l.length := by
  rw [hexText, flatMap_length_const _ _ 2 (by simp), Nat.mul_comm]

end Sys2Proof.Machine
end

