-- ==== Sys2Proof/Laws/Compress.lean ====
section
/-!
SUPPORT. COMPRESS_BLOCK (40_engine R123): it never fails for a descriptor's CSEL, it reads and writes the first
SW state registers at the algorithm's width, and only the BLAKE2 units look at the counter and the flag.
-/

namespace Sys2Proof.Machine

/-- The unit a CSEL selects, one lemma per code (30_encoding R93). -/
theorem compressBlock_csel (blk : List Byte) (t : BitVec 128) (last : Bool) (h : HRegs) :
    compressBlock 0x0 blk t last h = .ok (md5Unit h blk) ∧
    compressBlock 0x1 blk t last h = .ok (rmd128Unit h blk) ∧
    compressBlock 0x2 blk t last h = .ok (rmd160Unit h blk) ∧
    compressBlock 0x3 blk t last h = .ok (rmd256Unit h blk) ∧
    compressBlock 0x4 blk t last h = .ok (rmd320Unit h blk) ∧
    compressBlock 0x5 blk t last h = .ok (sha1Unit h blk) ∧
    compressBlock 0x6 blk t last h = .ok (sha256Unit h blk) ∧
    compressBlock 0x7 blk t last h = .ok (sha512Unit Config.native64 h blk) ∧
    compressBlock 0x8 blk t last h = .ok (blake2sUnit h blk t last) ∧
    compressBlock 0x9 blk t last h = .ok (blake2bUnit Config.native64 h blk t last) :=
  ⟨rfl, rfl, rfl, rfl, rfl, rfl, rfl, rfl, rfl, rfl⟩

/-- A descriptor's CSEL is never reserved (30_encoding R93). -/
theorem compressBlock_ok (a : Alg) (blk : List Byte) (t : BitVec 128) (last : Bool) (h : HRegs) :
    ∃ h', compressBlock a.desc.csel blk t last h = .ok h' := by
  cases a <;> exact ⟨_, rfl⟩

theorem compressBlock_eq_compress (a : Alg) (blk : List Byte) (t : Nat) (last : Bool) (h : HRegs) :
    compressBlock a.desc.csel blk (BitVec.ofNat 128 t) last h = .ok (a.compress blk t last h) := by
  obtain ⟨h', e⟩ := compressBlock_ok a blk (BitVec.ofNat 128 t) last h
  rw [Alg.compress, e]

/-- A unit is a function of its state words and its block, written back to the same state words. -/
theorem compressBlock_shape (a : Alg) (blk : List Byte) (t : BitVec 128) (last : Bool) :
    ∃ f : Vector (BitVec a.desc.width.bits) a.desc.sw → Vector (BitVec a.desc.width.bits) a.desc.sw,
      ∀ h, compressBlock a.desc.csel blk t last h =
        .ok (writeWords h (f (readWords a.desc.width.bits a.desc.sw h))) := by
  have c := compressBlock_csel blk t last
  cases a with
  | md5 => exact ⟨fun v => md5Block v (blockWords .little 32 blk), fun h => (c h).1⟩
  | ripemd128 => exact ⟨fun v => rmd128Block v (blockWords .little 32 blk), fun h => (c h).2.1⟩
  | ripemd160 => exact ⟨fun v => rmd160Block v (blockWords .little 32 blk), fun h => (c h).2.2.1⟩
  | ripemd256 => exact ⟨fun v => rmd256Block v (blockWords .little 32 blk), fun h => (c h).2.2.2.1⟩
  | ripemd320 => exact ⟨fun v => rmd320Block v (blockWords .little 32 blk), fun h => (c h).2.2.2.2.1⟩
  | sha1 => exact ⟨fun v => sha1Block v (blockWords .big 32 blk), fun h => (c h).2.2.2.2.2.1⟩
  | sha224 | sha256 =>
    exact ⟨fun v => sha2Block sha256Params v (blockWords .big 32 blk), fun h => (c h).2.2.2.2.2.2.1⟩
  | sha384 | sha512 | sha512t224 | sha512t256 =>
    exact ⟨fun v => sha2Block (sha512Params Config.native64) v (blockWords .big 64 blk),
      fun h => (c h).2.2.2.2.2.2.2.1⟩
  | blake2s =>
    exact ⟨fun v => blake2Block blake2sParams v (blockWords .little 32 blk) t last,
      fun h => (c h).2.2.2.2.2.2.2.2.1⟩
  | blake2b =>
    exact ⟨fun v => blake2Block (blake2bParams Config.native64) v (blockWords .little 64 blk) t last,
      fun h => (c h).2.2.2.2.2.2.2.2.2⟩

theorem sw_le (a : Alg) : a.desc.sw ≤ 10 := by cases a <;> decide

theorem compressBlock_unused {a : Alg} {blk : List Byte} {t : BitVec 128} {last : Bool} {h h' : HRegs}
    (e : compressBlock a.desc.csel blk t last h = .ok h') (i : Nat) (hi : i < 10) (hs : a.desc.sw ≤ i) :
    hReg h' i = hReg h i := by
  obtain ⟨f, hf⟩ := compressBlock_shape a blk t last
  obtain rfl : _ = h' := by simpa [hf] using e
  simp [hReg_writeWords _ _ _ hi, Nat.not_lt.mpr hs]

theorem compressBlock_narrow {a : Alg} {blk : List Byte} {t : BitVec 128} {last : Bool} {h h' : HRegs}
    (e : compressBlock a.desc.csel blk t last h = .ok h') (w : a.desc.width = .w32) (i : Nat)
    (hi : i < a.desc.sw) : (hReg h' i).extractLsb' 32 32 = 0 := by
  obtain ⟨f, hf⟩ := compressBlock_shape a blk t last
  obtain rfl : _ = h' := by simpa [hf] using e
  rw [hReg_writeWords _ _ _ (Nat.lt_of_lt_of_le hi (sw_le a)), if_pos hi]
  ext j hj
  have : a.desc.width.bits ≤ 32 + j := by rw [w]; exact Nat.le_add_right 32 j
  simp [BitVec.getLsbD_of_ge _ _ this]

theorem compressBlock_congr {a : Alg} {blk : List Byte} {t : BitVec 128} {last : Bool} {h k h' k' : HRegs}
    (c : ∀ i < a.desc.sw, hReg h i = hReg k i)
    (eh : compressBlock a.desc.csel blk t last h = .ok h')
    (ek : compressBlock a.desc.csel blk t last k = .ok k') : ∀ i < a.desc.sw, hReg h' i = hReg k' i := by
  obtain ⟨f, hf⟩ := compressBlock_shape a blk t last
  obtain rfl : _ = h' := by simpa [hf] using eh
  obtain rfl : _ = k' := by simpa [hf] using ek
  intro i hi
  have hi10 := Nat.lt_of_lt_of_le hi (sw_le a)
  simp [hReg_writeWords _ _ _ hi10, hi, readWords_congr c]

/-- Only BLAKE2 units read t and last (40_engine R123). -/
theorem compressBlock_counter {a : Alg} (hs : a.desc.scheme ≠ .blake) (blk : List Byte) (t t' : BitVec 128)
    (last last' : Bool) (h : HRegs) :
    compressBlock a.desc.csel blk t last h = compressBlock a.desc.csel blk t' last' h := by
  have c := compressBlock_csel blk t last h
  have c' := compressBlock_csel blk t' last' h
  cases a with
  | md5 => exact c.1.trans c'.1.symm
  | ripemd128 => exact c.2.1.trans c'.2.1.symm
  | ripemd160 => exact c.2.2.1.trans c'.2.2.1.symm
  | ripemd256 => exact c.2.2.2.1.trans c'.2.2.2.1.symm
  | ripemd320 => exact c.2.2.2.2.1.trans c'.2.2.2.2.1.symm
  | sha1 => exact c.2.2.2.2.2.1.trans c'.2.2.2.2.2.1.symm
  | sha224 | sha256 => exact c.2.2.2.2.2.2.1.trans c'.2.2.2.2.2.2.1.symm
  | sha384 | sha512 | sha512t224 | sha512t256 => exact c.2.2.2.2.2.2.2.1.trans c'.2.2.2.2.2.2.2.1.symm
  | blake2s | blake2b => exact absurd rfl hs

theorem compress_counter {a : Alg} (hs : a.desc.scheme ≠ .blake) (blk : List Byte) (t t' : Nat)
    (last last' : Bool) (h : HRegs) : a.compress blk t last h = a.compress blk t' last' h := by
  have e := compressBlock_counter hs blk (BitVec.ofNat 128 t) (BitVec.ofNat 128 t') last last' h
  rw [compressBlock_eq_compress, compressBlock_eq_compress] at e
  exact Except.ok.inj e

/-- H keeps to the algorithm's width and to its SW registers (10_state R35.4). -/
def HInv (a : Alg) (h : HRegs) : Prop :=
  (a.desc.width = .w32 → ∀ i < 10, (hReg h i).extractLsb' 32 32 = 0) ∧
  ∀ i < 10, a.desc.sw ≤ i → hReg h i = 0

theorem compressBlock_hInv {a : Alg} {blk : List Byte} {t : BitVec 128} {last : Bool} {h h' : HRegs}
    (e : compressBlock a.desc.csel blk t last h = .ok h') (inv : HInv a h) : HInv a h' := by
  refine ⟨fun hw i hi => ?_, fun i hi hs => ?_⟩
  · by_cases hs : i < a.desc.sw
    · exact compressBlock_narrow e hw i hs
    · rw [compressBlock_unused e i hi (Nat.not_lt.mp hs)]; exact inv.1 hw i hi
  · rw [compressBlock_unused e i hi hs]; exact inv.2 i hi hs

/-- The tail's blocks compressed in order, for any algorithm. -/
theorem compressTail_ok (a : Alg) (t : BitVec 128) (last : Bool) (n : Nat) (tail : List Byte) (h : HRegs) :
    ∃ h', compressTail a t last n tail h = .ok h' := by
  induction n generalizing tail h with
  | zero => exact ⟨h, rfl⟩
  | succ n ih =>
    obtain ⟨h', e⟩ := compressBlock_ok a (tail.take a.desc.bs.bytes) t last h
    simpa [compressTail, e] using ih _ h'

/-- What every block of the tail keeps, the whole tail keeps. -/
theorem compressTail_induct {a : Alg} {t : BitVec 128} {last : Bool} {P : HRegs → Prop}
    (step : ∀ blk h h', P h → compressBlock a.desc.csel blk t last h = .ok h' → P h') :
    ∀ {n tail h h'}, P h → compressTail a t last n tail h = .ok h' → P h' := by
  intro n
  induction n with
  | zero => intro tail h h' p e; cases e; exact p
  | succ n ih =>
    intro tail h h' p e
    obtain ⟨k, ek⟩ := compressBlock_ok a (tail.take a.desc.bs.bytes) t last h
    rw [compressTail, ek] at e
    exact ih (step _ _ _ p ek) e

theorem compressTail_hInv {a : Alg} {t : BitVec 128} {last : Bool} {n : Nat} {tail : List Byte} {h h' : HRegs}
    (e : compressTail a t last n tail h = .ok h') (inv : HInv a h) : HInv a h' :=
  compressTail_induct (P := HInv a) (fun _ _ _ p e => compressBlock_hInv e p) inv e

theorem compressTail_congr {a : Alg} {t : BitVec 128} {last : Bool} {n : Nat} {tail : List Byte} :
    ∀ {h k h' k' : HRegs}, (∀ i < a.desc.sw, hReg h i = hReg k i) →
      compressTail a t last n tail h = .ok h' → compressTail a t last n tail k = .ok k' →
      ∀ i < a.desc.sw, hReg h' i = hReg k' i := by
  induction n generalizing tail with
  | zero => intro h k h' k' c e e'; cases e; cases e'; exact c
  | succ n ih =>
    intro h k h' k' c e e'
    obtain ⟨x, ex⟩ := compressBlock_ok a (tail.take a.desc.bs.bytes) t last h
    obtain ⟨y, ey⟩ := compressBlock_ok a (tail.take a.desc.bs.bytes) t last k
    rw [compressTail, ex] at e
    rw [compressTail, ey] at e'
    exact ih (compressBlock_congr c ex ey) e e'

/-- A Merkle–Damgård tail is compressed like any other run of blocks. -/
theorem compressTail_md {a : Alg} (hs : a.desc.scheme ≠ .blake) (t : BitVec 128) (last : Bool) (n c : Nat)
    (tail : List Byte) (h : HRegs) : compressTail a t last n tail h = .ok (a.fullBlocks n c tail h) := by
  induction n generalizing tail h c with
  | zero => rfl
  | succ n ih =>
    rw [compressTail, compressBlock_counter hs _ t (BitVec.ofNat 128 (c + a.desc.bs.bytes)) last false,
      compressBlock_eq_compress]
    exact ih _ _ _

theorem fullBlocks_add (a : Alg) (m n c : Nat) (l : List Byte) (h : HRegs) :
    a.fullBlocks (m + n) c l h =
      a.fullBlocks n (c + m * a.desc.bs.bytes) (l.drop (m * a.desc.bs.bytes)) (a.fullBlocks m c l h) := by
  induction m generalizing c l h with
  | zero => simp [Alg.fullBlocks]
  | succ m ih =>
    rw [Nat.succ_add, Alg.fullBlocks, ih, Alg.fullBlocks, List.drop_drop, Nat.succ_mul, Nat.add_assoc,
      Nat.add_comm a.desc.bs.bytes]

/-- Whole blocks are a function of their own bytes. -/
theorem fullBlocks_congr {a : Alg} {n c : Nat} {l k : List Byte} {h : HRegs}
    (e : l.take (n * a.desc.bs.bytes) = k.take (n * a.desc.bs.bytes)) :
    a.fullBlocks n c l h = a.fullBlocks n c k h := by
  induction n generalizing c l k h with
  | zero => rfl
  | succ n ih =>
    have e1 : l.take a.desc.bs.bytes = k.take a.desc.bs.bytes := by
      have := congrArg (List.take a.desc.bs.bytes) e
      simpa [List.take_take, Nat.succ_mul] using this
    have e2 : (l.drop a.desc.bs.bytes).take (n * a.desc.bs.bytes) =
        (k.drop a.desc.bs.bytes).take (n * a.desc.bs.bytes) := by
      have := congrArg (List.drop a.desc.bs.bytes) e
      simpa [List.drop_take, Nat.succ_mul] using this
    rw [Alg.fullBlocks, Alg.fullBlocks, e1, ih e2]

end Sys2Proof.Machine
end

