-- ==== Sys2Proof/Laws/Ops.lean ====
section
/-!
SUPPORT. The shared operations: what admits a command (60_exceptions R371), what a rejection and an answer are
(R372, 30_encoding R82), and the status word.
-/

namespace Sys2Proof.Machine

theorem selectedAlg_ok {s : State} {a : Alg} : selectedAlg s = .ok a ↔ s.fatal = false ∧ s.alg = some a := by
  unfold selectedAlg
  cases s.fatal <;> cases h : s.alg <;> simp

theorem checkSelected_ok {k : Nat} {s : State} {a : Alg} :
    checkSelected k s = .ok a ↔ s.payload.length = k ∧ s.fatal = false ∧ s.alg = some a := by
  unfold checkSelected
  split <;> simp [selectedAlg_ok, *]

/-- Why a command is not admitted, check by check (60_exceptions R371, checks 1 to 3). -/
theorem checkSelected_error {k : Nat} {s : State} {c : ResultCode} :
    checkSelected k s = .error c ↔
      (s.payload.length ≠ k ∧ c = .illegalCmd) ∨
      (s.payload.length = k ∧ s.fatal = true ∧ c = .fatalState) ∨
      (s.payload.length = k ∧ s.fatal = false ∧ s.alg = none ∧ c = .noAlg) := by
  unfold checkSelected selectedAlg
  by_cases hp : s.payload.length = k <;> cases s.fatal <;> cases s.alg <;> simp [hp, eq_comm]

theorem reject_rejectedWith (code : ResultCode) (s : State) : RejectedWith code s (reject code s) :=
  ⟨rfl, rfl, rfl, rfl, rfl, rfl⟩

theorem reject_answered (code : ResultCode) (s : State) : Answered code [] s (reject code s) :=
  ⟨rfl, rfl, rfl, rfl, rfl⟩

/-- The status word depends on the registers alone (10_state R33). -/
theorem status_congr {s t : State} (h : s.regs = t.regs) : s.status = t.status := by
  have h' := h
  simp only [State.regs, Regs.mk.injEq] at h'
  obtain ⟨h1, h2, h3, -, -, -, -, h8, -, h10, h11⟩ := h'
  simp only [State.status, State.algId, h1, h2, h3, h8, h10, h11]

/-- A command that completes is answered OK from a state whose channels are those of the command's start. -/
theorem accept_answered {s t : State} (data : List Byte) (hi : t.inbox = s.inbox) (ho : t.outbox = s.outbox)
    (hs : t.sel = s.sel) (hp : t.ports = s.ports) (hd : t.draws = s.draws) :
    Answered .ok data s (accept data t) := by
  refine ⟨?_, ?_, hs, hp, hd⟩
  · simp [hi]
  · simp only [accept_outbox, ho]; rfl

/-- An ADD's length field never exceeds P_ADD_MAX (00_scope R7, 30_encoding R86). -/
theorem addLength_le (n : BitVec 24) : n.toNat ≤ Config.addMax := Nat.le_sub_one_of_lt n.isLt

end Sys2Proof.Machine
end

