-- ==== Sys2Proof/Laws/Padding.lean ====
section
/-!
SUPPORT. The padding controller's tails: their lengths (41_padding R163, R164) and the shape of padding a whole
message.
-/

namespace Sys2Proof.Machine

theorem BlockSize.bytes_pos (b : BlockSize) : 0 < b.bytes := by cases b <;> decide

theorem BlockSize.bytes_cases (b : BlockSize) : b.bytes = 64 ∨ b.bytes = 128 := by cases b <;> simp [bytes]

/-- The length of a Merkle–Damgård tail, block by block (R160, R161): `k` bytes follow the pending ones. -/
theorem mdTail_length_mod (bs n k : Nat) (hbs : 0 < bs) :
    (n + k + (bs - (n + k) % bs) % bs) % bs = 0 := by
  have h := Nat.mod_lt (n + k) hbs
  rcases Nat.eq_zero_or_pos ((n + k) % bs) with h0 | h0
  · simp [h0]
  · rw [Nat.mod_eq_of_lt (show bs - (n + k) % bs < bs by omega), Nat.add_mod, Nat.mod_eq_of_lt
      (show bs - (n + k) % bs < bs by omega)]
    rw [show (n + k) % bs + (bs - (n + k) % bs) = bs by omega, Nat.mod_self]

theorem padMdLe_length (bs : BlockSize) (buf : List Byte) (len : Nat) :
    (padMdLe bs buf len).length =
      buf.length + 9 + (bs.bytes - (buf.length + 9) % bs.bytes) % bs.bytes := by
  simp [padMdLe]; omega

theorem padMdBe_length (bs : BlockSize) (buf : List Byte) (len : Nat) :
    (padMdBe bs buf len).length = buf.length + (1 + bs.bytes / 8) +
      (bs.bytes - (buf.length + (1 + bs.bytes / 8)) % bs.bytes) % bs.bytes := by
  simp [padMdBe, ← Nat.add_assoc]; omega

theorem padBlake_length (bs : BlockSize) (buf : List Byte) (h : buf.length ≤ bs.bytes) :
    (padBlake bs buf).length = bs.bytes := by
  simp [padBlake]; omega

theorem padMdLe_length_mod (bs : BlockSize) (buf : List Byte) (len : Nat) :
    (padMdLe bs buf len).length % bs.bytes = 0 := by
  rw [padMdLe_length]; exact mdTail_length_mod _ _ _ bs.bytes_pos

theorem padMdBe_length_mod (bs : BlockSize) (buf : List Byte) (len : Nat) :
    (padMdBe bs buf len).length % bs.bytes = 0 := by
  rw [padMdBe_length]; exact mdTail_length_mod _ _ _ bs.bytes_pos

/-- Padding a message after `k` whole blocks pads the rest and keeps those blocks. -/
theorem padMdLe_blocks (bs : BlockSize) (pre rest : List Byte) (len : Nat)
    (h : pre.length % bs.bytes = 0) : padMdLe bs (pre ++ rest) len = pre ++ padMdLe bs rest len := by
  have e : (pre.length + rest.length + 9) % bs.bytes = (rest.length + 9) % bs.bytes := by
    rw [Nat.add_assoc, Nat.add_mod, h, Nat.zero_add, Nat.mod_mod]
  simp [padMdLe, e]

theorem padMdBe_blocks (bs : BlockSize) (pre rest : List Byte) (len : Nat)
    (h : pre.length % bs.bytes = 0) : padMdBe bs (pre ++ rest) len = pre ++ padMdBe bs rest len := by
  have e : (pre.length + rest.length + 1 + bs.bytes / 8) % bs.bytes =
      (rest.length + 1 + bs.bytes / 8) % bs.bytes := by
    rw [Nat.add_assoc, Nat.add_assoc, Nat.add_mod, h, Nat.zero_add, Nat.mod_mod, Nat.add_assoc]
  simp [padMdBe, e]

/-- The padding call of FINISH always selects a scheme: PADSEL comes from the descriptor (30_encoding R92). -/
theorem padTail_scheme (sc : Scheme) (bs : BlockSize) (buf : List Byte) (len : Nat) :
    padTail sc.padsel bs buf len = .ok (match sc with
      | .mdLe => padMdLe bs buf len
      | .mdBe => padMdBe bs buf len
      | .blake => padBlake bs buf) := by
  cases sc <;> rfl

/-- FINISH's tail is a positive whole number of blocks (41_padding R164), for a pending buffer that is no
longer than a block when the scheme is BLAKE. -/
theorem padTail_wellFormed (sc : Scheme) (bs : BlockSize) (buf : List Byte) (len : Nat)
    (h : sc = .blake → buf.length ≤ bs.bytes) :
    ∃ tail, padTail sc.padsel bs buf len = .ok tail ∧ 0 < tail.length ∧ tail.length % bs.bytes = 0 := by
  refine ⟨_, padTail_scheme sc bs buf len, ?_, ?_⟩
  · cases sc with
    | mdLe => simp only [padMdLe_length]; omega
    | mdBe => simp only [padMdBe_length]; omega
    | blake => simp only [padBlake_length _ _ (h rfl)]; exact bs.bytes_pos
  · cases sc with
    | mdLe => exact padMdLe_length_mod _ _ _
    | mdBe => exact padMdBe_length_mod _ _ _
    | blake => simp only [padBlake_length _ _ (h rfl)]; exact Nat.mod_self _

end Sys2Proof.Machine
end

