-- ==== Sys2Proof/Laws/Absorb.lean ====
section
/-!
SUPPORT. ADD's loop (40_engine R122): it always succeeds, it is a fold over the bytes, it changes H, COUNT,
PBUF and PLEN only, and it keeps the relation between the registers and the message absorbed so far.
-/

namespace Sys2Proof.Machine

theorem flushBlock_ok (a : Alg) (s : State) :
    ∃ h, compressBlock a.desc.csel (s.pbuf.toList.take a.desc.bs.bytes)
        ((s.count + BitVec.ofNat 64 a.desc.bs.bytes).setWidth 128) false s.h = .ok h ∧
      flushBlock a s =
        .ok { s with h := h, count := s.count + BitVec.ofNat 64 a.desc.bs.bytes, plen := 0 } := by
  obtain ⟨h, e⟩ := compressBlock_ok a (s.pbuf.toList.take a.desc.bs.bytes)
    ((s.count + BitVec.ofNat 64 a.desc.bs.bytes).setWidth 128) false s.h
  exact ⟨h, e, by simp [flushBlock, e]⟩

/-- What one iteration of ADD's loop does, case by case. -/
theorem absorbByte_cases (a : Alg) (s : State) (b : Byte) :
    (a.desc.scheme = .blake ∧ blockFull a s = true ∧
      ∃ u, flushBlock a s = .ok u ∧ absorbByte a s b = .ok (appendByte b u)) ∨
    (a.desc.scheme = .blake ∧ blockFull a s = false ∧ absorbByte a s b = .ok (appendByte b s)) ∨
    (a.desc.scheme ≠ .blake ∧ blockFull a (appendByte b s) = true ∧
      ∃ u, flushBlock a (appendByte b s) = .ok u ∧ absorbByte a s b = .ok u) ∨
    (a.desc.scheme ≠ .blake ∧ blockFull a (appendByte b s) = false ∧
      absorbByte a s b = .ok (appendByte b s)) := by
  by_cases hs : a.desc.scheme = .blake
  · by_cases hf : blockFull a s = true
    · obtain ⟨h, -, e⟩ := flushBlock_ok a s
      exact .inl ⟨hs, hf, _, e, by simp [absorbByte, hs, hf, e]⟩
    · simp only [Bool.not_eq_true] at hf
      exact .inr (.inl ⟨hs, hf, by simp [absorbByte, hs, hf]⟩)
  · by_cases hf : blockFull a (appendByte b s) = true
    · obtain ⟨h, -, e⟩ := flushBlock_ok a (appendByte b s)
      exact .inr (.inr (.inl ⟨hs, hf, _, e, by simp [absorbByte, hs, hf, e]⟩))
    · simp only [Bool.not_eq_true] at hf
      exact .inr (.inr (.inr ⟨hs, hf, by simp [absorbByte, hs, hf]⟩))

/-- `t` differs from `s` at most in H, COUNT, PBUF and PLEN. -/
structure SameButStream (s t : State) : Prop where
  alg : t.alg = s.alg
  nn : t.nn = s.nn
  variant : t.variant = s.variant
  fin : t.fin = s.fin
  dig : t.dig = s.dig
  fatal : t.fatal = s.fatal
  lasterr : t.lasterr = s.lasterr
  inbox : t.inbox = s.inbox
  outbox : t.outbox = s.outbox
  sel : t.sel = s.sel
  ports : t.ports = s.ports
  draws : t.draws = s.draws

theorem SameButStream.refl (s : State) : SameButStream s s :=
  ⟨rfl, rfl, rfl, rfl, rfl, rfl, rfl, rfl, rfl, rfl, rfl, rfl⟩

theorem SameButStream.trans {s t u : State} (h : SameButStream s t) (k : SameButStream t u) :
    SameButStream s u :=
  ⟨k.alg.trans h.alg, k.nn.trans h.nn, k.variant.trans h.variant, k.fin.trans h.fin, k.dig.trans h.dig,
   k.fatal.trans h.fatal, k.lasterr.trans h.lasterr, k.inbox.trans h.inbox, k.outbox.trans h.outbox,
   k.sel.trans h.sel, k.ports.trans h.ports, k.draws.trans h.draws⟩

theorem appendByte_sameButStream (b : Byte) (s : State) : SameButStream s (appendByte b s) :=
  ⟨rfl, rfl, rfl, rfl, rfl, rfl, rfl, rfl, rfl, rfl, rfl, rfl⟩

theorem flushBlock_sameButStream {a : Alg} {s t : State} (e : flushBlock a s = .ok t) :
    SameButStream s t := by
  obtain ⟨h, -, e'⟩ := flushBlock_ok a s
  obtain rfl : _ = t := by simpa [e'] using e
  exact ⟨rfl, rfl, rfl, rfl, rfl, rfl, rfl, rfl, rfl, rfl, rfl, rfl⟩

theorem absorbByte_ok (a : Alg) (s : State) (b : Byte) :
    ∃ t, absorbByte a s b = .ok t ∧ SameButStream s t := by
  rcases absorbByte_cases a s b with ⟨-, -, u, e, e'⟩ | ⟨-, -, e'⟩ | ⟨-, -, u, e, e'⟩ | ⟨-, -, e'⟩
  · exact ⟨_, e', (flushBlock_sameButStream e).trans (appendByte_sameButStream b u)⟩
  · exact ⟨_, e', appendByte_sameButStream b s⟩
  · exact ⟨_, e', (appendByte_sameButStream b s).trans (flushBlock_sameButStream e)⟩
  · exact ⟨_, e', appendByte_sameButStream b s⟩

/-- ADD's loop never fails, and changes only the streaming registers. -/
theorem absorb_ok (a : Alg) (p : List Byte) (s : State) : ∃ t, absorb a p s = .ok t ∧ SameButStream s t := by
  induction p generalizing s with
  | nil => exact ⟨s, rfl, .refl s⟩
  | cons b p ih =>
    obtain ⟨u, e, f⟩ := absorbByte_ok a s b
    obtain ⟨t, e', f'⟩ := ih u
    exact ⟨t, by rw [absorb, e]; exact e', f.trans f'⟩

/-- Absorbing two payloads one after the other is absorbing their concatenation (40_engine R128). -/
theorem absorb_append (a : Alg) (p q : List Byte) (s : State) :
    absorb a (p ++ q) s = match absorb a p s with
      | .ok t => absorb a q t
      | .error c => .error c := by
  induction p generalizing s with
  | nil => rfl
  | cons b p ih =>
    obtain ⟨u, e, -⟩ := absorbByte_ok a s b
    simp only [List.cons_append, absorb, e, ih]

/-- What every iteration keeps, the whole loop keeps. -/
theorem absorb_induct {a : Alg} {P : State → Prop}
    (step : ∀ s t b, P s → absorbByte a s b = .ok t → P t) :
    ∀ {p s t}, P s → absorb a p s = .ok t → P t := by
  intro p
  induction p with
  | nil => intro s t h e; cases e; exact h
  | cons b p ih =>
    intro s t h e
    obtain ⟨u, eu, -⟩ := absorbByte_ok a s b
    rw [absorb, eu] at e
    exact ih (step _ _ _ h eu) e

/-! ## The pending bytes -/

theorem pending_length (s : State) : s.pending.length = min s.plen.toNat 128 := by
  simp [State.pending]

theorem appendByte_pending {b : Byte} {s : State} (h : s.plen.toNat < 128) :
    (appendByte b s).pending = s.pending ++ [b] := by
  have e : (s.plen + 1).toNat = s.plen.toNat + 1 := by
    rw [BitVec.toNat_add]; simp; omega
  simp only [State.pending, appendByte_pbuf, appendByte_plen, e]
  rw [List.take_succ_eq_append_getElem (by simpa using h)]
  congr 1
  · simp [Vector.toList_setIfInBounds, List.take_set_of_le]
  · simp

theorem appendByte_plen_toNat {b : Byte} {s : State} (h : s.plen.toNat < 255) :
    (appendByte b s).plen.toNat = s.plen.toNat + 1 := by
  rw [appendByte_plen, BitVec.toNat_add]; simp; omega

/-! ## The message absorbed so far -/

theorem flushBlock_full {a : Alg} {s : State} (hp : s.plen.toNat = a.desc.bs.bytes)
    (hc : s.count.toNat + a.desc.bs.bytes < 2 ^ 64) :
    ∃ t, flushBlock a s = .ok t ∧ t.plen = 0 ∧ t.pbuf = s.pbuf ∧
      t.count.toNat = s.count.toNat + a.desc.bs.bytes ∧
      t.h = a.compress s.pending (s.count.toNat + a.desc.bs.bytes) false s.h := by
  have hb : a.desc.bs.bytes < 2 ^ 64 := by omega
  have ec : (s.count + BitVec.ofNat 64 a.desc.bs.bytes).toNat = s.count.toNat + a.desc.bs.bytes := by
    rw [BitVec.toNat_add, BitVec.toNat_ofNat, Nat.mod_eq_of_lt hb, Nat.mod_eq_of_lt hc]
  obtain ⟨h, e, e'⟩ := flushBlock_ok a s
  refine ⟨_, e', rfl, rfl, ec, ?_⟩
  have et : (s.count + BitVec.ofNat 64 a.desc.bs.bytes).setWidth 128 =
      BitVec.ofNat 128 (s.count.toNat + a.desc.bs.bytes) := by
    apply BitVec.eq_of_toNat_eq
    simp only [BitVec.toNat_setWidth, BitVec.toNat_ofNat, ec]
  rw [et, ← hp, compressBlock_eq_compress, hp] at e
  simpa [State.pending, hp] using (Except.ok.inj e).symm

/-- One more whole block of the message. -/
theorem fullBlocks_snoc (a : Alg) (n : Nat) (m : List Byte) (h : HRegs) :
    a.fullBlocks (n + 1) 0 m h =
      a.compress ((m.drop (n * a.desc.bs.bytes)).take a.desc.bs.bytes)
        (n * a.desc.bs.bytes + a.desc.bs.bytes) false (a.fullBlocks n 0 m h) := by
  rw [fullBlocks_add]
  simp [Alg.fullBlocks]

theorem fullBlocks_append {a : Alg} {n : Nat} {m p : List Byte} {h : HRegs}
    (hn : n * a.desc.bs.bytes ≤ m.length) : a.fullBlocks n 0 (m ++ p) h = a.fullBlocks n 0 m h :=
  fullBlocks_congr (by rw [List.take_append_of_le_length hn])

theorem blocksAbsorbed_le (a : Alg) (len : Nat) : a.blocksAbsorbed len * a.desc.bs.bytes ≤ len := by
  unfold Alg.blocksAbsorbed
  split
  · exact (Nat.div_mul_le_self _ _).trans (Nat.sub_le _ _)
  · exact Nat.div_mul_le_self _ _

theorem Absorbed.of_sameButStream {a : Alg} {k : BitVec 7} {m m' : List Byte} {s t : State}
    (h : Absorbed a k m s) (f : SameButStream s t) (hl : m'.length ≤ Config.maxMsgBytes)
    (hc : t.count.toNat = a.blocksAbsorbed m'.length * a.desc.bs.bytes)
    (hp : t.plen.toNat = m'.length - a.blocksAbsorbed m'.length * a.desc.bs.bytes)
    (hq : t.pending = m'.drop (a.blocksAbsorbed m'.length * a.desc.bs.bytes))
    (hh : t.h = a.fullBlocks (a.blocksAbsorbed m'.length) 0 m' (a.initH k)) : Absorbed a k m' t :=
  ⟨f.alg.trans h.alg, f.nn.trans h.nn, f.fin.trans h.fin, f.fatal.trans h.fatal, hl, hc, hp, hq, hh⟩

/-- One byte absorbed: the registers follow the message (40_engine R122). -/
theorem absorbByte_absorbed {a : Alg} {k : BitVec 7} {m : List Byte} {s t : State} {b : Byte}
    (h : Absorbed a k m s) (hl : m.length + 1 ≤ Config.maxMsgBytes) (e : absorbByte a s b = .ok t) :
    Absorbed a k (m ++ [b]) t := by
  obtain ⟨t', et, f⟩ := absorbByte_ok a s b
  obtain rfl : t' = t := by rw [et] at e; exact Except.ok.inj e
  have hmax : Config.maxMsgBytes = 2305843009213693951 := by decide
  have hbs := a.desc.bs.bytes_cases
  have hle := blocksAbsorbed_le a m.length
  have hc := h.count
  have hp := h.plen
  have hq := h.pending
  have hh := h.h
  generalize hn : a.blocksAbsorbed m.length = n at *
  generalize hB : a.desc.bs.bytes = B at *
  have hl' : (m ++ [b]).length ≤ Config.maxMsgBytes := by simpa using hl
  have hplen : s.plen.toNat ≤ B := by
    unfold Alg.blocksAbsorbed at hn
    rw [hB] at hn
    split at hn
    · rcases hbs with rfl | rfl <;> omega
    · rcases hbs with rfl | rfl <;> omega
  have key : ∀ n', a.blocksAbsorbed (m ++ [b]).length = n' →
      t'.count.toNat = n' * B → t'.plen.toNat = m.length + 1 - n' * B →
      t'.pending = (m ++ [b]).drop (n' * B) → t'.h = a.fullBlocks n' 0 (m ++ [b]) (a.initH k) →
      Absorbed a k (m ++ [b]) t' := by
    intro n' e1 e2 e3 e4 e5
    exact h.of_sameButStream f hl' (by rw [e1, hB, e2]) (by rw [e1, hB, e3]; simp) (by rw [e1, hB, e4])
      (by rw [e1, e5])
  rcases absorbByte_cases a s b with ⟨hs, hf, u, eu, eb⟩ | ⟨hs, hf, eb⟩ | ⟨hs, hf, u, eu, eb⟩ | ⟨hs, hf, eb⟩
  all_goals
    rw [eb] at et
    have ht := Except.ok.inj et
    subst ht
  · -- BLAKE, held-back block compressed
    have hfull : s.plen.toNat = B := by simpa [blockFull, hB] using hf
    obtain ⟨u', eu', up, ub, uc, uh⟩ := flushBlock_full (a := a) (s := s) (by omega) (by omega)
    obtain rfl : u' = u := by rw [eu] at eu'; exact (Except.ok.inj eu').symm
    have hlen : m.length = n * B + B := by omega
    have epend : u'.pending = [] := by simp [State.pending, up]
    refine key (n + 1) ?_ ?_ ?_ ?_ ?_
    · unfold Alg.blocksAbsorbed
      rw [if_pos hs, hB, List.length_append, List.length_singleton, hlen, Nat.add_sub_cancel, ← Nat.succ_mul,
        Nat.mul_div_cancel _ (by omega)]
    · rw [appendByte_count, uc, hc, hB, Nat.succ_mul]
    · rw [appendByte_plen_toNat (by simp [up]), up, hlen, Nat.succ_mul]; simp
    · rw [appendByte_pending (by simp [up]), epend, Nat.succ_mul, ← hlen]; simp
    · have hm : (m ++ [b]).drop (n * B) = s.pending ++ [b] := by
        rw [List.drop_append_of_le_length (by omega), hq]
      have hpl : s.pending.length = B := by rw [hq]; simp; omega
      rw [appendByte_h, uh, hh, hc, fullBlocks_snoc, hB, hm, fullBlocks_append (by rw [hB]; omega)]
      simp [hpl]
  · -- BLAKE, appended
    have hnf : s.plen.toNat ≠ B := by simpa [blockFull, hB] using hf
    have hn' : a.blocksAbsorbed (m ++ [b]).length = n := by
      unfold Alg.blocksAbsorbed at hn ⊢
      rw [if_pos hs, hB] at hn ⊢
      rw [List.length_append, List.length_singleton, Nat.add_sub_cancel]
      rcases hbs with rfl | rfl <;> omega
    refine key n hn' hc ?_ ?_ ?_
    · rw [appendByte_plen_toNat (by omega)]; omega
    · rw [appendByte_pending (by omega), hq, List.drop_append_of_le_length hle]
    · rw [appendByte_h, hh, fullBlocks_append (by rw [hB]; omega)]
  · -- MD, block full
    have hlt : s.plen.toNat < B := by
      unfold Alg.blocksAbsorbed at hn
      rw [if_neg hs, hB] at hn
      rcases hbs with rfl | rfl <;> omega
    have hap := appendByte_plen_toNat (b := b) (s := s) (by omega)
    have hfull : (appendByte b s).plen.toNat = B := by simpa [blockFull, hB] using hf
    obtain ⟨u', eu', up, ub, uc, uh⟩ := flushBlock_full (a := a) (s := appendByte b s) (by omega)
      (by rw [appendByte_count]; omega)
    obtain rfl : u' = u := by rw [eu] at eu'; exact (Except.ok.inj eu').symm
    have hlen : m.length + 1 = n * B + B := by omega
    have hpe := appendByte_pending (b := b) (s := s) (by omega)
    refine key (n + 1) ?_ ?_ ?_ ?_ ?_
    · unfold Alg.blocksAbsorbed
      rw [if_neg hs, hB, List.length_append, List.length_singleton, hlen, ← Nat.succ_mul,
        Nat.mul_div_cancel _ (by omega)]
    · rw [uc, appendByte_count, hc, hB, Nat.succ_mul]
    · rw [up, hlen, Nat.succ_mul]; simp
    · rw [Nat.succ_mul, ← hlen]; simp [State.pending, up]
    · have hm : (m ++ [b]).drop (n * B) = s.pending ++ [b] := by
        rw [List.drop_append_of_le_length (by omega), hq]
      have hpl : (s.pending ++ [b]).length = B := by rw [hq]; simp; omega
      rw [uh, appendByte_h, appendByte_count, hh, hc, fullBlocks_snoc, hB, hm,
        fullBlocks_append (by rw [hB]; omega), hpe, List.take_of_length_le (by omega)]
  · -- MD, appended
    have hlt : s.plen.toNat < B := by
      unfold Alg.blocksAbsorbed at hn
      rw [if_neg hs, hB] at hn
      rcases hbs with rfl | rfl <;> omega
    have hap := appendByte_plen_toNat (b := b) (s := s) (by omega)
    have hnf : (appendByte b s).plen.toNat ≠ B := by simpa [blockFull, hB] using hf
    have hn' : a.blocksAbsorbed (m ++ [b]).length = n := by
      unfold Alg.blocksAbsorbed at hn ⊢
      rw [if_neg hs, hB] at hn ⊢
      rw [List.length_append, List.length_singleton]
      rcases hbs with rfl | rfl <;> omega
    refine key n hn' hc ?_ ?_ ?_
    · rw [hap]; omega
    · rw [appendByte_pending (by omega), hq, List.drop_append_of_le_length hle]
    · rw [appendByte_h, hh, fullBlocks_append (by rw [hB]; omega)]

/-- The message length of a state that has absorbed a message (10_state R25). -/
theorem Absorbed.msgLen_eq {a : Alg} {k : BitVec 7} {m : List Byte} {s : State} (h : Absorbed a k m s) :
    s.msgLen = m.length := by
  have hle := blocksAbsorbed_le a m.length
  rw [State.msgLen, h.count, h.plen]; omega

end Sys2Proof.Machine
end

