-- ==== Sys2Proof/Machine/Assembler.lean ====
section
/-!
DEFINITION. The textual commands of 30_encoding R96 as the transactions they encode, and the pseudo-commands of
R97 with their expansions. A host writes a program with these; the engine itself sees only transactions.
-/

namespace Sys2Proof.Machine

/-- The mnemonic of an algorithm in `INIT <alg>` (R84). -/
def Alg.mnemonic : Alg → String
  | .md5 => "md5"
  | .ripemd128 => "ripemd128"
  | .ripemd160 => "ripemd160"
  | .ripemd256 => "ripemd256"
  | .ripemd320 => "ripemd320"
  | .sha1 => "sha1"
  | .sha224 => "sha224"
  | .sha256 => "sha256"
  | .sha384 => "sha384"
  | .sha512 => "sha512"
  | .sha512t224 => "sha512_224"
  | .sha512t256 => "sha512_256"
  | .blake2s => "blake2s"
  | .blake2b => "blake2b"

/-- The transaction of a host command and a payload; none for an internal operation (R80, R91). -/
def transactionOf (i : Instr) (payload : List Byte) : Option Transaction :=
  match encode i with
  | .command cw => some ⟨cw, payload⟩
  | .selector _ => none

/-- `STAT` (R96). -/
def statText : Transaction := ⟨0x00000000, []⟩

/-- `INIT <alg>, nn=<n>, unrolled`; `nn = 0` is the plain `INIT <alg>` (R96). -/
def initText (a : Alg) (nn : BitVec 7) (unrolled : Bool) : Transaction :=
  ⟨0x1#4 ++ 0#12 ++ BitVec.ofBool unrolled ++ nn ++ a.id, []⟩

/-- `ADD` of the listed bytes, at most P_ADD_MAX of them (R96, R86). More bytes are not expressible in one ADD
(92_eei_decisions D23): the text then encodes the whole payload with the low 24 bits of its length as N, which the
engine rejects with E_ILLEGAL_CMD. DESIGN CHOICE, notes/assumptions/22.md. -/
def addText (payload : List Byte) : Transaction :=
  ⟨0x2#4 ++ 0#4 ++ BitVec.ofNat 24 payload.length, payload⟩

/-- `ADD <n> x <b>` (R96), with `addText`'s choice for `n` above P_ADD_MAX (notes/assumptions/22.md). -/
def addCopiesText (n : Nat) (b : Byte) : Transaction := addText (List.replicate n b)

/-- `FINISH` (R96). -/
def finishText : Transaction := ⟨0x30000000, []⟩

/-- `TOBIN` (R96). -/
def tobinText : Transaction := ⟨0x40000000, []⟩

/-- `TOHEX` (R96). -/
def tohexText : Transaction := ⟨0x50000000, []⟩

/-- `DIGEST <alg>, <payload>` (R97), with `addText`'s choice for a longer payload (notes/assumptions/22.md). -/
def digestText (a : Alg) (payload : List Byte) : List Transaction :=
  [initText a 0 false, addText payload, tobinText]

/-- `HEXDIGEST <alg>, <payload>` (R97), with `addText`'s choice for a longer payload (notes/assumptions/22.md). -/
def hexdigestText (a : Alg) (payload : List Byte) : List Transaction :=
  [initText a 0 false, addText payload, tohexText]

/-- The first `fuel` runs of `k` bytes of a payload, the last one shorter. -/
def splitRuns (k : Nat) : Nat → List Byte → List (List Byte)
  | 0, _ => []
  | _ + 1, [] => []
  | fuel + 1, b :: bs => (b :: bs).take k :: splitRuns k fuel ((b :: bs).drop k)

/-- `ADDSPLIT <k>, <payload>` for `k` of 1 to P_ADD_MAX (R97). An empty payload has no run and expands to no command,
although R97 also says that the effect is the single ADD's, and `k = 0` gives empty ADDs: DESIGN CHOICE,
notes/assumptions/23.md. A longer run is `addText`'s choice (22.md). -/
def addsplitText (k : Nat) (payload : List Byte) : List Transaction :=
  (splitRuns k payload.length payload).map addText

/-- The host issues transactions: they wait behind those already issued (R80). -/
def State.issue (s : State) (program : List Transaction) : State := { s with inbox := s.inbox ++ program }

end Sys2Proof.Machine
end

