-- ==== Sys2Proof/Certificates/Slice0/Obligations.lean ====
section
/-!
DEFINITION. The statements for the provers, from the numbered rules of spec/. Each docstring names the rule
its statement formalises. The recurrences of the compression units are written here from the rules, with the
word operations of Lean's BitVec, and not from the meanings.
-/

open Sys2Proof Sys2Proof.Machine

/-! ## Words the statements use -/

namespace Sys2Proof.Claims

/-- The last response of an outbox, if there is one. -/
def lastCode (t : State) : Option ResultCode := t.outbox.getLast?.map Response.code

/-- A command word or payload that 30_encoding R89 lists as illegal, in terms of the word's number. -/
def illegal (cw : BitVec 32) (payload : List Byte) : Prop :=
  let v := cw.toNat
  let op := v / 2 ^ 28
  6 ≤ op ∨
  (op = 1 ∧ v / 2 ^ 16 % 2 ^ 12 ≠ 0) ∨
  (op = 2 ∧ v / 2 ^ 24 % 2 ^ 4 ≠ 0) ∨
  ((op = 0 ∨ op = 3 ∨ op = 4 ∨ op = 5) ∧ v % 2 ^ 28 ≠ 0) ∨
  (op ≠ 2 ∧ payload ≠ []) ∨
  (op = 2 ∧ payload.length ≠ v % 2 ^ 24)

/-- A W64CTL that 47_word64_alu R349 calls reserved, in terms of its fields W64OP and AMT. -/
def reservedW64 (op amt : Nat) : Prop :=
  op = 7 ∨ (op ≤ 4 ∧ amt ≠ 0) ∨ (op = 5 ∧ 63 < amt) ∨ (op = 6 ∧ 64 < amt)

/-- The fatal effect of R377 without a transaction: FATAL and LASTERR written, the registers R377 names kept,
nothing returned. -/
def FatalAlone (s t : State) : Prop :=
  t.fatal = true ∧ t.lasterr = .unitReserved ∧ t.alg = s.alg ∧ t.nn = s.nn ∧ t.variant = s.variant ∧
  t.fin = s.fin ∧ t.inbox = s.inbox ∧ t.outbox = s.outbox ∧ t.ports = s.ports ∧ t.sel = none

/-- `X[j]` of a block on the block wires: little-endian 32-bit words (20_memory R63). -/
def xLe32 (s : State) (j : Nat) : Word32 := leWord 32 s.ports.blk.toList (4 * j)

/-- `X[j]`: big-endian 32-bit words (R63). -/
def xBe32 (s : State) (j : Nat) : Word32 := beWord 32 s.ports.blk.toList (4 * j)

/-- `X[j]`: little-endian 64-bit words (R63). -/
def xLe64 (s : State) (j : Nat) : Word64 := leWord 64 s.ports.blk.toList (8 * j)

/-- `X[j]`: big-endian 64-bit words (R63). -/
def xBe64 (s : State) (j : Nat) : Word64 := beWord 64 s.ports.blk.toList (8 * j)

/-- `H[i][31:0]`. -/
def h32 (s : State) (i : Nat) : Word32 := (hReg s.h i).setWidth 32

/-- A compression unit ran by itself: `t` is `s` with its selector consumed and the words `r 0 .. r (n-1)`,
zero-extended, in `H[0..n)`; every other register and field is as before (40_engine R123). That a unit can run
by itself, on the block, counter and flag of the `ports` wires, is the model's choice
(notes/assumptions/3.md). -/
def UnitResult {w : Nat} (n : Nat) (r : Nat → BitVec w) (s t : State) : Prop :=
  t = { s with sel := none, h := t.h } ∧
  (∀ i < n, hReg t.h i = (r i).setWidth 64) ∧ (∀ i < 10, n ≤ i → hReg t.h i = hReg s.h i)

/-- f1 to f5 of 43_ripemd R211. -/
def rmdF (n : Nat) (x y z : Word32) : Word32 :=
  if n = 1 then x ^^^ y ^^^ z
  else if n = 2 then (x &&& y) ||| (~~~x &&& z)
  else if n = 3 then (x ||| ~~~y) ^^^ z
  else if n = 4 then (x &&& z) ||| (y &&& ~~~z)
  else x ^^^ (y ||| ~~~z)

/-- STEP4 of R218 leads from `l` to `l'`. -/
def Step4 (f : Nat) (x k : Word32) (n : Nat) (l l' : Line4) : Prop :=
  l'.A = l.D ∧ l'.B = (l.A + rmdF f l.B l.C l.D + x + k).rotateLeft n ∧ l'.C = l.B ∧ l'.D = l.C

/-- STEP5 of R218 leads from `l` to `l'`. -/
def Step5 (f : Nat) (x k : Word32) (n : Nat) (l l' : Line5) : Prop :=
  l'.A = l.E ∧ l'.B = (l.A + rmdF f l.B l.C l.D + x + k).rotateLeft n + l.E ∧ l'.C = l.B ∧
  l'.D = l.C.rotateLeft 10 ∧ l'.E = l.D

/-- Step `j` of the two 4-word lines (R212, R222). -/
def Pair4 (s : State) (j : Nat) (l r l' r' : Line4) : Prop :=
  Step4 (j / 16 + 1) (xLe32 s (Rom.rmdRL.getD j 0)) (Rom.rmdKL.getD (j / 16) 0) (Rom.rmdSL.getD j 0) l l' ∧
  Step4 (4 - j / 16) (xLe32 s (Rom.rmdRR.getD j 0)) (Rom.rmdKR128.getD (j / 16) 0) (Rom.rmdSR.getD j 0) r r'

/-- Step `j` of the two 5-word lines (R212, R223). -/
def Pair5 (s : State) (j : Nat) (l r l' r' : Line5) : Prop :=
  Step5 (j / 16 + 1) (xLe32 s (Rom.rmdRL.getD j 0)) (Rom.rmdKL.getD (j / 16) 0) (Rom.rmdSL.getD j 0) l l' ∧
  Step5 (5 - j / 16) (xLe32 s (Rom.rmdRR.getD j 0)) (Rom.rmdKR160.getD (j / 16) 0) (Rom.rmdSR.getD j 0) r r'

/-- The exchange of RIPEMD-256 after round `g` (R221). -/
def Exchange256 (g : Nat) (l r l' r' : Line4) : Prop :=
  (g = 0 → l' = ⟨r.A, l.B, l.C, l.D⟩ ∧ r' = ⟨l.A, r.B, r.C, r.D⟩) ∧
  (g = 1 → l' = ⟨l.A, r.B, l.C, l.D⟩ ∧ r' = ⟨r.A, l.B, r.C, r.D⟩) ∧
  (g = 2 → l' = ⟨l.A, l.B, r.C, l.D⟩ ∧ r' = ⟨r.A, r.B, l.C, r.D⟩) ∧
  (g = 3 → l' = ⟨l.A, l.B, l.C, r.D⟩ ∧ r' = ⟨r.A, r.B, r.C, l.D⟩)

/-- The exchange of RIPEMD-320 after round `g` (R221). -/
def Exchange320 (g : Nat) (l r l' r' : Line5) : Prop :=
  (g = 0 → l' = ⟨l.A, r.B, l.C, l.D, l.E⟩ ∧ r' = ⟨r.A, l.B, r.C, r.D, r.E⟩) ∧
  (g = 1 → l' = ⟨l.A, l.B, l.C, r.D, l.E⟩ ∧ r' = ⟨r.A, r.B, r.C, l.D, r.E⟩) ∧
  (g = 2 → l' = ⟨r.A, l.B, l.C, l.D, l.E⟩ ∧ r' = ⟨l.A, r.B, r.C, r.D, r.E⟩) ∧
  (g = 3 → l' = ⟨l.A, l.B, r.C, l.D, l.E⟩ ∧ r' = ⟨r.A, r.B, l.C, r.D, r.E⟩) ∧
  (g = 4 → l' = ⟨l.A, l.B, l.C, l.D, r.E⟩ ∧ r' = ⟨r.A, r.B, r.C, r.D, l.E⟩)

/-- The eight working words of SHA-2 after `n` steps of R274 from `h`, for the functions, constants and
schedule of a unit's width, and the feed-forward of R278 and R288 as `out`. -/
def Sha2Run {w : Nat} (bigS0 bigS1 smallS0 smallS1 : BitVec w → BitVec w) (k x h out : Nat → BitVec w)
    (n : Nat) : Prop :=
  ∃ (W : Nat → BitVec w) (v : Nat → Sha2Work w),
    (∀ t < 16, W t = x t) ∧
    (∀ t, 16 ≤ t → t < n → W t = smallS1 (W (t - 2)) + W (t - 7) + smallS0 (W (t - 15)) + W (t - 16)) ∧
    v 0 = ⟨h 0, h 1, h 2, h 3, h 4, h 5, h 6, h 7⟩ ∧
    (∀ t < n,
      let u := v t
      let t1 := u.h + bigS1 u.e + ((u.e &&& u.f) ^^^ (~~~u.e &&& u.g)) + k t + W t
      let t2 := bigS0 u.a + ((u.a &&& u.b) ^^^ (u.a &&& u.c) ^^^ (u.b &&& u.c))
      v (t + 1) = ⟨t1 + t2, u.a, u.b, u.c, u.d + t1, u.e, u.f, u.g⟩) ∧
    out 0 = h 0 + (v n).a ∧ out 1 = h 1 + (v n).b ∧ out 2 = h 2 + (v n).c ∧ out 3 = h 3 + (v n).d ∧
    out 4 = h 4 + (v n).e ∧ out 5 = h 5 + (v n).f ∧ out 6 = h 6 + (v n).g ∧ out 7 = h 7 + (v n).h

/-- `v[i] <- x`. -/
def upd {w : Nat} (v : Nat → BitVec w) (i : Nat) (x : BitVec w) : Nat → BitVec w :=
  fun j => if j = i then x else v j

/-- `G(a, b, c, d, x, y)` of 46_blake2 R314, assignment by assignment. -/
def blakeG {w : Nat} (r1 r2 r3 r4 a b c d : Nat) (x y : BitVec w) (v0 : Nat → BitVec w) : Nat → BitVec w :=
  let v1 := upd v0 a (v0 a + v0 b + x)
  let v2 := upd v1 d ((v1 d ^^^ v1 a).rotateRight r1)
  let v3 := upd v2 c (v2 c + v2 d)
  let v4 := upd v3 b ((v3 b ^^^ v3 c).rotateRight r2)
  let v5 := upd v4 a (v4 a + v4 b + y)
  let v6 := upd v5 d ((v5 d ^^^ v5 a).rotateRight r3)
  let v7 := upd v6 c (v6 c + v6 d)
  upd v7 b ((v7 b ^^^ v7 c).rotateRight r4)

/-- Round `i` of R315. -/
def blakeRound {w : Nat} (r1 r2 r3 r4 : Nat) (x : Nat → BitVec w) (i : Nat) (v : Nat → BitVec w) :
    Nat → BitVec w :=
  let m := fun j => x ((Rom.blake2Sigma.getD (i % 10) []).getD j 0).val
  let g := blakeG r1 r2 r3 r4
  g 3 4 9 14 (m 14) (m 15) (g 2 7 8 13 (m 12) (m 13) (g 1 6 11 12 (m 10) (m 11)
    (g 0 5 10 15 (m 8) (m 9) (g 3 7 11 15 (m 6) (m 7) (g 2 6 10 14 (m 4) (m 5)
      (g 1 5 9 13 (m 2) (m 3) (g 0 4 8 12 (m 0) (m 1) v)))))))

/-- The compression of R316 and R317 from `h` to `out`, with counter words `t0`, `t1`. -/
def Blake2Run {w : Nat} (r1 r2 r3 r4 rounds : Nat) (iv : List (BitVec w)) (x h out : Nat → BitVec w)
    (t0 t1 : BitVec w) (last : Bool) : Prop :=
  ∃ v : Nat → Nat → BitVec w,
    (∀ j < 8, v 0 j = h j) ∧
    (∀ j < 8, v 0 (8 + j) =
      (if j = 4 then iv.getD 4 0 ^^^ t0 else if j = 5 then iv.getD 5 0 ^^^ t1
       else if j = 6 ∧ last = true then ~~~(iv.getD 6 0) else iv.getD j 0)) ∧
    (∀ i < rounds, ∀ j < 16, v (i + 1) j = blakeRound r1 r2 r3 r4 x i (v i) j) ∧
    (∀ j < 8, out j = h j ^^^ v rounds j ^^^ v rounds (j + 8))

end Sys2Proof.Claims

open Sys2Proof.Claims

/-! ## Encodings -/

/-- The example texts of 30_encoding R98: the word and payload each encodes, and what the decoder reads from the
word; and one selector of each internal format (R92 to R94). -/
def Obligations.ExampleWordsDecode : Prop :=
  (statText = ⟨0x00000000, []⟩ ∧ decodeCommand 0x00000000 = .ok .stat) ∧
  (initText .md5 0 false = ⟨0x10000001, []⟩ ∧ decodeCommand 0x10000001 = .ok (.init 0x01 0 0)) ∧
  (initText .md5 0 true = ⟨0x10008001, []⟩ ∧ decodeCommand 0x10008001 = .ok (.init 0x01 0 1)) ∧
  (initText .sha256 0 false = ⟨0x10000008, []⟩ ∧ decodeCommand 0x10000008 = .ok (.init 0x08 0 0)) ∧
  (initText .sha512t224 0 false = ⟨0x1000000B, []⟩ ∧ decodeCommand 0x1000000B = .ok (.init 0x0B 0 0)) ∧
  (initText .blake2s 20 false = ⟨0x1000140D, []⟩ ∧ decodeCommand 0x1000140D = .ok (.init 0x0D 20 0)) ∧
  (initText .blake2b 0 false = ⟨0x1000000E, []⟩ ∧ decodeCommand 0x1000000E = .ok (.init 0x0E 0 0)) ∧
  (addText [0x61, 0x62, 0x63] = ⟨0x20000003, [0x61, 0x62, 0x63]⟩ ∧ decodeCommand 0x20000003 = .ok (.add 3)) ∧
  (addCopiesText 56 0x55 = ⟨0x20000038, List.replicate 56 0x55⟩ ∧ decodeCommand 0x20000038 = .ok (.add 56)) ∧
  (finishText = ⟨0x30000000, []⟩ ∧ decodeCommand 0x30000000 = .ok .finish) ∧
  (tobinText = ⟨0x40000000, []⟩ ∧ decodeCommand 0x40000000 = .ok .tobin) ∧
  (tohexText = ⟨0x50000000, []⟩ ∧ decodeCommand 0x50000000 = .ok .tohex) ∧
  decodeCommand 0x60000000 = .error .illegalOp ∧
  decodeSelector (.padsel 2) = .ok .padBlake ∧
  decodeSelector (.csel 0x9) = .ok .blake2bCompress ∧
  decodeSelector (.w64ctl 0x2BF) = .ok (.w64Rotr 63) ∧
  decodeSelector (.w64ctl 0x240) = .error .reservedAmt

/-- Every operation, with every operand value its encoding admits, is what its encoding decodes to (R83 to R88,
R92 to R94). -/
def Obligations.DecodeOfEncode : Prop := ∀ i : Instr, decode (encode i) = .ok i

/-- Every encoding that decodes is the encoding of what it decodes to: each word has one meaning (R90). -/
def Obligations.EncodeOfDecode : Prop := ∀ (e : Encoding) (i : Instr), decode e = .ok i → encode i = e

/-- The rows of the opcode table for the host commands: a word that matches a row's mask and pattern decodes to
that row's command with its fields read straight from their bits (R83, R84, R86, R87, R88). -/
def Obligations.CommandWordsFollowTheTable : Prop :=
  ∀ cw : BitVec 32,
    (cw &&& 0xFFFFFFFF = 0x00000000 → decodeCommand cw = .ok .stat) ∧
    (cw &&& 0xFFFF0000 = 0x10000000 →
      decodeCommand cw = .ok (.init (cw.extractLsb' 0 8) (cw.extractLsb' 8 7) (cw.extractLsb' 15 1))) ∧
    (cw &&& 0xFF000000 = 0x20000000 → decodeCommand cw = .ok (.add (cw.extractLsb' 0 24))) ∧
    (cw &&& 0xFFFFFFFF = 0x30000000 → decodeCommand cw = .ok .finish) ∧
    (cw &&& 0xFFFFFFFF = 0x40000000 → decodeCommand cw = .ok .tobin) ∧
    (cw &&& 0xFFFFFFFF = 0x50000000 → decodeCommand cw = .ok .tohex)

/-- A command is rejected with E_ILLEGAL_CMD exactly when R89 lists it as illegal, and then nothing changes but
LASTERR. -/
def Obligations.IllegalCommandsAreRejected : Prop :=
  ∀ (s : State) (cw : BitVec 32) (p : List Byte) (rest : List Transaction),
    s.sel = none → s.inbox = ⟨cw, p⟩ :: rest →
    (illegal cw p → ∃ t, step s = .next t ∧ RejectedWith .illegalCmd s t) ∧
    (¬ illegal cw p → ∃ t, step s = .next t ∧ lastCode t ≠ some .illegalCmd)

/-- A reserved PADSEL, CSEL or W64CTL that reaches a unit gives no result, sets FATAL and leaves
E_UNIT_RESERVED in LASTERR; ALG, NN, VARIANT and FIN keep their values (R92, R93, R349, R377). That no response
belongs to it is the model's choice (notes/assumptions/7.md). -/
def Obligations.ReservedSelectorsAreFatal : Prop :=
  ∀ s : State,
    (s.sel = some (.padsel 3) → ∃ t, step s = .next t ∧ FatalAlone s t) ∧
    (∀ v : BitVec 4, s.sel = some (.csel v) → 0xA ≤ v.toNat → ∃ t, step s = .next t ∧ FatalAlone s t) ∧
    (∀ (op : BitVec 3) (amt : BitVec 7), s.sel = some (.w64ctl (op ++ amt)) → reservedW64 op.toNat amt.toNat →
      ∃ t, step s = .next t ∧ FatalAlone s t)

/-! ## Steps -/

/-- With no selector waiting, a step performs the operation the oldest command word decodes to (R80); a waiting
selector is performed first (the model's choice, notes/assumptions/3.md). -/
def Obligations.StepRunsTheDecodedOperation : Prop :=
  ∀ (s : State) (i : Instr),
    (∀ (tx : Transaction) (rest : List Transaction), s.sel = none → s.inbox = tx :: rest →
      decodeCommand tx.cw = .ok i → step s = exec i s) ∧
    (∀ v : Selector, s.sel = some v → decodeSelector v = .ok i → step s = exec i s)

/-- Between commands the engine is idle and keeps every register (R389). -/
def Obligations.IdleKeepsEveryRegister : Prop :=
  ∀ s : State, s.sel = none → s.inbox = [] → step s = .next s

/-- No step stops the machine, in any state. For a transaction R68, R370, R381 and R409 say so: a host command
completes or is rejected. For the rest it is the model's choice: that an idle step is a next state
(notes/assumptions/2.md), that a selector by itself is a step (3.md), and that a reserved one, a fatal failure
R377 lets a model treat as a fault, is a next state with the effect R377 gives (7.md, 17.md). -/
def Obligations.EveryStepGivesANextState : Prop := ∀ s : State, ∃ t, step s = .next t

/-- One transaction is one step with one response, whose STATUS is the status word after the command, whose DATA
is empty unless the code is OK, and whose code is what LASTERR then holds unless the command is a STAT that
succeeds, which leaves LASTERR alone (R80, R82, R30). -/
def Obligations.OneResponsePerCommand : Prop :=
  ∀ (s : State) (tx : Transaction) (rest : List Transaction), s.sel = none → s.inbox = tx :: rest →
    ∃ (t : State) (r : Response), step s = .next t ∧ t.inbox = rest ∧ t.outbox = s.outbox ++ [r] ∧
      r.status = t.status ∧ (r.code ≠ .ok → r.data = []) ∧
      (tx.cw = 0 ∧ tx.payload = [] → r.code = .ok ∧ r.data = [] ∧ t.lasterr = s.lasterr) ∧
      (¬ (tx.cw = 0 ∧ tx.payload = []) → t.lasterr = r.code)

/-! ## Reset -/

/-- Power-on reset puts every register to 0 (R400, R38), so STATUS is 0. -/
def Obligations.ResetRegisters : Prop :=
  let s := State.reset
  s.algId = 0x00 ∧ s.nn = 0 ∧ s.variant = 0 ∧ (∀ i < 10, hReg s.h i = 0) ∧ s.count = 0 ∧
  (∀ i < 128, s.pbuf.toList.getD i 0xFF = 0) ∧ s.plen = 0 ∧ (∀ i < 64, s.dig.toList.getD i 0xFF = 0) ∧
  s.fin = false ∧ s.fatal = false ∧ s.lasterr.bits = 0 ∧ s.status = 0x00000000

/-- The state after reset satisfies the invariant of the machine. -/
def Obligations.ResetSatisfiesTheInvariants : Prop := Inv State.reset ∧ State.reset.fatal = false

/-! ## Invariants -/

/-- Every step from any state that satisfies the invariants of R35 leads to one that does. -/
def Obligations.StepKeepsTheInvariants : Prop :=
  ∀ s t : State, Inv s → step s = .next t → Inv t

/-- Neither fatal failure can happen: from a state that satisfies the invariants, with FATAL = 0, no step sets
FATAL (R377, R164). -/
def Obligations.NoStepFromTheInvariantsIsFatal : Prop :=
  ∀ s t : State, Inv s → s.fatal = false → step s = .next t → t.fatal = false

/-- Only INIT writes ALG (R21), NN (R22) and VARIANT (R23), whatever the operation and the state. -/
def Obligations.OnlyInitSelectsAnAlgorithm : Prop :=
  ∀ (i : Instr) (s t : State), exec i s = .next t →
    (∃ algid nnreq var, i = .init algid nnreq var) ∨
    (t.alg = s.alg ∧ t.nn = s.nn ∧ t.variant = s.variant)

/-- While FIN = 1, no command except INIT changes ALG, NN, VARIANT, H, COUNT, PBUF, PLEN or DIG, and FIN stays
1 (R27). -/
def Obligations.FinishedStateIsFrozen : Prop :=
  ∀ (i : Instr) (s t : State), i.isHostCommand = true → s.fin = true → exec i s = .next t →
    (∃ algid nnreq var, i = .init algid nnreq var) ∨
    { t.regs with lasterr := s.lasterr } = s.regs

/-- FIN is set only by FINISH, TOBIN and TOHEX and cleared only by INIT (R27). -/
def Obligations.OnlyFinishingSetsFin : Prop :=
  ∀ (i : Instr) (s t : State), exec i s = .next t →
    (s.fin = false → t.fin = true → i = .finish ∨ i = .tobin ∨ i = .tohex) ∧
    (s.fin = true → t.fin = false → ∃ algid nnreq var, i = .init algid nnreq var)

/-- DIG is written only by INIT and by the commands that finish (R28, 90_conflicts C11). -/
def Obligations.OnlyInitAndFinishingWriteTheDigest : Prop :=
  ∀ (i : Instr) (s t : State), i.isHostCommand = true → exec i s = .next t →
    t.dig = s.dig ∨ i = .finish ∨ i = .tobin ∨ i = .tohex ∨ ∃ algid nnreq var, i = .init algid nnreq var

/-- While FATAL = 1 (R378): ADD, FINISH, TOBIN and TOHEX with the payload they need are rejected with
E_FATAL_STATE; STAT still works and shows the flag in STATUS[17]; a successful INIT clears it and starts a new
message; a failed INIT, and every other operation, leaves it set. -/
def Obligations.FatalStateLastsUntilInit : Prop :=
  ∀ (i : Instr) (s t : State), s.fatal = true → exec i s = .next t →
    (∀ n, i = .add n → s.payload.length = n.toNat → RejectedWith .fatalState s t) ∧
    (i = .finish ∨ i = .tobin ∨ i = .tohex → s.payload = [] → RejectedWith .fatalState s t) ∧
    (i = .stat → s.payload = [] → Answered .ok [] s t ∧ t.status.extractLsb' 17 1 = 1) ∧
    (∀ algid nnreq var, i = .init algid nnreq var →
      if t.lasterr = .ok then t.fatal = false ∧ t.fin = false ∧ t.msgLen = 0 ∧ t.algId = algid
      else t.fatal = true) ∧
    ((∀ algid nnreq var, i ≠ .init algid nnreq var) → t.fatal = true)

/-! ## Errors -/

/-- A command that a step answers with a code of checks 1 to 5, or with INIT's E_UNKNOWN_ALG, was rejected: no
register changed but LASTERR, which holds the code, and the response has the code, the STATUS after that write
and no data (R372). -/
def Obligations.RejectionChangesOnlyLastErr : Prop :=
  ∀ (s t : State) (r : Response), s.sel = none → step s = .next t → t.outbox = s.outbox ++ [r] →
    r.code ∈ [ResultCode.illegalCmd, .unknownAlg, .noAlg, .finalized, .lengthLimit, .fatalState] →
    RejectedWith r.code s t

/-- The check order of R371 for ADD: payload length, FATAL, no algorithm, FIN, length limit; and with none of
them the ADD completes with code OK. -/
def Obligations.AddChecksInOrder : Prop :=
  ∀ (n : BitVec 24) (s : State), ∃ t, exec (.add n) s = .next t ∧
    if s.payload.length ≠ n.toNat then RejectedWith .illegalCmd s t
    else if s.fatal = true then RejectedWith .fatalState s t
    else if s.alg = none then RejectedWith .noAlg s t
    else if s.fin = true then RejectedWith .finalized s t
    else if s.count.toNat + s.plen.toNat + n.toNat > 2 ^ 61 - 1 then RejectedWith .lengthLimit s t
    else Answered .ok [] s t ∧ t.lasterr = .ok

/-- The check order of R371 for FINISH, TOBIN and TOHEX: payload, FATAL, no algorithm; and with none of them and
PLEN within a block, the command completes with code OK. -/
def Obligations.FinishingChecksInOrder : Prop :=
  ∀ (i : Instr) (s : State), i = .finish ∨ i = .tobin ∨ i = .tohex → ∃ t, exec i s = .next t ∧
    if s.payload ≠ [] then RejectedWith .illegalCmd s t
    else if s.fatal = true then RejectedWith .fatalState s t
    else
      match s.alg with
      | none => RejectedWith .noAlg s t
      | some a => s.plen.toNat ≤ a.desc.bs.bytes → ∃ data, Answered .ok data s t ∧ t.lasterr = .ok

/-- The padding check of FINISH (R124, R377): a BLAKE tail that is not a whole number of blocks, which only a
PLEN no command leaves can give, sets FATAL and reports E_PAD_INTERNAL; every other register keeps its
value.
That PAD_BLAKE gives an unpadded tail for such a PLEN, and so that the check fails here, is the model's choice
(notes/assumptions/18.md, and 9.md for registers outside their ranges): R162 gives a tail for a PLEN up to BS only. -/
def Obligations.MalformedTailIsFatal : Prop :=
  ∀ (i : Instr) (s : State) (a : Alg), i = .finish ∨ i = .tobin ∨ i = .tohex →
    s.payload = [] → s.fatal = false → s.fin = false → s.alg = some a → a.desc.scheme = .blake →
    a.desc.bs.bytes < s.plen.toNat → s.plen.toNat < 128 →
    ∃ t, exec i s = .next t ∧ Answered .padInternal [] s t ∧
      t.regs = { s.regs with fatal := true, lasterr := .padInternal }

/-! ## INIT -/

/-- INIT on a legal request loads every register (R120, R38): the requested algorithm, its digest length, the
variant bit, the IV with BLAKE2's parameter word, and 0 everywhere else. -/
def Obligations.InitLoadsEveryRegister : Prop :=
  ∀ (a : Alg) (nnreq : BitVec 7) (var : BitVec 1) (s : State), a.nnLegal nnreq = true → s.payload = [] →
    ∃ t, exec (.init a.id nnreq var) s = .next t ∧ Answered .ok [] s t ∧
      t.algId = a.id ∧ t.nn = (if nnreq = 0 then a.desc.nn else nnreq) ∧ t.variant = var ∧
      (∀ i < 10, hReg t.h i =
        (if i < a.desc.sw then a.desc.iv.getD i 0 else 0) ^^^
        (if i = 0 ∧ (a = .blake2s ∨ a = .blake2b) then 0x01010000#64 ^^^ t.nn.setWidth 64 else 0)) ∧
      t.count = 0 ∧ t.plen = 0 ∧ (∀ i < 128, t.pbuf.toList.getD i 0xFF = 0) ∧
      t.fin = false ∧ (∀ i < 64, t.dig.toList.getD i 0xFF = 0) ∧ t.fatal = false ∧ t.lasterr = .ok

/-- INIT is rejected with E_UNKNOWN_ALG for an ALGID of 0x00 or 0x0F to 0xFF, and for a NNREQ that R85 does not
allow; every register other than LASTERR keeps its value (R373, R84, R85). -/
def Obligations.InitRejectsUnknownRequests : Prop :=
  ∀ (algid : BitVec 8) (nnreq : BitVec 7) (var : BitVec 1) (s : State), s.payload = [] →
    (algid.toNat = 0 ∨ 0x0F ≤ algid.toNat ∨
     (1 ≤ algid.toNat ∧ algid.toNat ≤ 0x0C ∧ nnreq ≠ 0 ∧
      nnreq.toNat ≠ [0, 16, 16, 20, 32, 40, 20, 28, 32, 48, 64, 28, 32].getD algid.toNat 0) ∨
     (algid.toNat = 0x0D ∧ 32 < nnreq.toNat) ∨ (algid.toNat = 0x0E ∧ 64 < nnreq.toNat)) →
    ∃ t, exec (.init algid nnreq var) s = .next t ∧ RejectedWith .unknownAlg s t

/-- A successful INIT leaves the same registers whatever the state before it: in the middle of a message, after
FINISH, or with FATAL = 1 (R129, R401). -/
def Obligations.InitForgetsTheOldComputation : Prop :=
  ∀ (algid : BitVec 8) (nnreq : BitVec 7) (var : BitVec 1) (s s' t t' : State),
    exec (.init algid nnreq var) s = .next t → exec (.init algid nnreq var) s' = .next t' →
    t.lasterr = .ok → t'.lasterr = .ok → t.regs = t'.regs

/-! ## STAT and the status word -/

/-- STAT returns OK with empty data and the status word, and writes no register, in every state (R127). -/
def Obligations.StatReadsTheStatusWord : Prop :=
  ∀ s : State, s.payload = [] →
    ∃ t, exec .stat s = .next t ∧ Answered .ok [] s t ∧ t.regs = s.regs ∧
      t.outbox = s.outbox ++ [⟨.ok, s.status, []⟩]

/-- The layout of STATUS (R33): each field at its bits, the reserved bits 0. -/
def Obligations.StatusWordLayout : Prop :=
  ∀ s : State,
    s.status.extractLsb' 0 8 = s.algId ∧ s.status.extractLsb' 8 7 = s.nn ∧
    s.status.extractLsb' 15 1 = s.variant ∧ s.status.extractLsb' 16 1 = BitVec.ofBool s.fin ∧
    s.status.extractLsb' 17 1 = BitVec.ofBool s.fatal ∧ s.status.extractLsb' 18 2 = 0 ∧
    s.status.extractLsb' 20 4 = s.lasterr.bits ∧ s.status.extractLsb' 24 8 = 0

/-! ## ADD -/

/-- A state right after INIT has absorbed the empty message (R120, R62). -/
def Obligations.InitAbsorbsTheEmptyMessage : Prop :=
  ∀ (a : Alg) (nnreq : BitVec 7) (var : BitVec 1) (s : State), a.nnLegal nnreq = true → s.payload = [] →
    ∃ t, exec (.init a.id nnreq var) s = .next t ∧ Absorbed a (a.digestLen nnreq) [] t

/-- ADD appends its payload to the message absorbed so far: the pending bytes, COUNT, PLEN and the state
registers are those of the longer message (R122, R62). -/
def Obligations.AddAppendsItsPayload : Prop :=
  ∀ (a : Alg) (size : BitVec 7) (m : List Byte) (n : BitVec 24) (s : State), Absorbed a size m s →
    s.payload.length = n.toNat → m.length + n.toNat ≤ Config.maxMsgBytes →
    ∃ t, exec (.add n) s = .next t ∧ Answered .ok [] s t ∧ Absorbed a size (m ++ s.payload) t

/-- What ADD leaves alone, in every state: ALG, NN, VARIANT, FIN, DIG and FATAL, and the model's own fields but
the two channels (R122). -/
def Obligations.AddFrame : Prop :=
  ∀ (n : BitVec 24) (s t : State), exec (.add n) s = .next t →
    t.alg = s.alg ∧ t.nn = s.nn ∧ t.variant = s.variant ∧ t.fin = s.fin ∧ t.dig = s.dig ∧
    t.fatal = s.fatal ∧ t.sel = s.sel ∧ t.ports = s.ports ∧ t.draws = s.draws ∧ t.inbox = s.inbox.tail

/-- ADD of no byte changes nothing except LASTERR (R122). -/
def Obligations.EmptyAddChangesOnlyLastErr : Prop :=
  ∀ s : State, s.payload = [] → s.fatal = false → s.alg ≠ none → s.fin = false →
    s.msgLen ≤ Config.maxMsgBytes →
    ∃ t, exec (.add 0) s = .next t ∧ Answered .ok [] s t ∧ t.regs = { s.regs with lasterr := .ok }

/-- An accepted ADD adds N to the message length, and compresses every block that is then full, but one fewer
for BLAKE when the length is a positive multiple of the block size (R25, R26, R409). -/
def Obligations.AddCountsItsBytes : Prop :=
  ∀ (a : Alg) (n : BitVec 24) (s t : State), Inv s → s.alg = some a → exec (.add n) s = .next t →
    t.lasterr = .ok → s.fatal = false →
    t.count.toNat + t.plen.toNat = s.count.toNat + s.plen.toNat + n.toNat ∧
    t.count.toNat =
      (if a = .blake2s ∨ a = .blake2b then s.count.toNat + s.plen.toNat + n.toNat - 1
       else s.count.toNat + s.plen.toNat + n.toNat) / a.desc.bs.bytes * a.desc.bs.bytes

/-- Chunking invariance (R67, R128): where a payload split in two is accepted, so is the whole payload, and it
leaves the same registers, from every state that satisfies the invariants. -/
def Obligations.ChunkingInvariance : Prop :=
  ∀ (s u v : State) (p q : List Byte) (n k l : BitVec 24) (cw : BitVec 32) (rest : List Transaction),
    Inv s → p.length = n.toNat → q.length = k.toNat → l.toNat = n.toNat + k.toNat →
    exec (.add n) { s with inbox := ⟨cw, p⟩ :: rest } = .next u → u.lasterr = .ok →
    exec (.add k) { u with inbox := ⟨cw, q⟩ :: rest } = .next v → v.lasterr = .ok →
    ∃ w, exec (.add l) { s with inbox := ⟨cw, p ++ q⟩ :: rest } = .next w ∧ w.regs = v.regs

/-! ## FINISH, TOBIN, TOHEX -/

/-- FINISH completes the digest of the message absorbed (R124, R64): the final state registers, `DIG[0..NN)`,
COUNT = L, PLEN = 0, PBUF = 0 and FIN = 1; ALG, NN, VARIANT, FATAL and `DIG[NN..63]` keep their values. -/
def Obligations.FinishComputesTheDigest : Prop :=
  ∀ (a : Alg) (size : BitVec 7) (m : List Byte) (s : State), Absorbed a size m s → s.payload = [] →
    a.nnLegal size = true →
    ∃ t, exec .finish s = .next t ∧ Answered .ok [] s t ∧ t.h = a.finalH size m ∧
      t.digest = a.digestOf size m ∧
      (∀ i < 64, size.toNat ≤ i → t.dig.toList.getD i 0 = s.dig.toList.getD i 0) ∧
      t.count.toNat = m.length ∧ t.plen = 0 ∧ (∀ i < 128, t.pbuf.toList.getD i 0xFF = 0) ∧
      t.fin = true ∧ t.alg = s.alg ∧ t.nn = s.nn ∧ t.variant = s.variant ∧ t.fatal = false ∧ t.lasterr = .ok

/-- TOBIN returns the NN bytes of the digest of the message absorbed, and TOHEX their text, finishing the message
as FINISH does (R125, R126, R64). -/
def Obligations.TobinAndTohexReturnTheDigest : Prop :=
  ∀ (a : Alg) (size : BitVec 7) (m : List Byte) (s : State), Absorbed a size m s → s.payload = [] →
    a.nnLegal size = true →
    (∃ t, exec .tobin s = .next t ∧ Answered .ok (a.digestOf size m) s t ∧
      ∀ u, exec .finish s = .next u → t.regs = u.regs) ∧
    (∃ t, exec .tohex s = .next t ∧ Answered .ok (hexText (a.digestOf size m)) s t ∧
      ∀ u, exec .finish s = .next u → t.regs = u.regs)

/-- Once FIN = 1, FINISH is a no-op with code OK, TOBIN returns `DIG[0..NN)` and TOHEX its text; no register
changes but LASTERR (R124, R125, R126, R69). -/
def Obligations.FinishingIsIdempotent : Prop :=
  ∀ s : State, s.fin = true → s.fatal = false → s.alg ≠ none → s.payload = [] →
    (∃ t, exec .finish s = .next t ∧ Answered .ok [] s t ∧ t.regs = { s.regs with lasterr := .ok }) ∧
    (∃ t, exec .tobin s = .next t ∧ Answered .ok s.digest s t ∧ t.regs = { s.regs with lasterr := .ok }) ∧
    (∃ t, exec .tohex s = .next t ∧ Answered .ok (hexText s.digest) s t ∧
      t.regs = { s.regs with lasterr := .ok })

/-- The text of TOHEX: two characters a byte, most significant nibble first, from `0`-`9` and `a`-`f` (R126,
R12). -/
def Obligations.HexTextFormat : Prop :=
  ∀ l : List Byte, (hexText l).length = 2 * l.length ∧
    ∀ i < l.length, ∀ b, l[i]? = some b →
      (hexText l)[2 * i]? = some ([0x30, 0x31, 0x32, 0x33, 0x34, 0x35, 0x36, 0x37, 0x38, 0x39, 0x61, 0x62,
        0x63, 0x64, 0x65, 0x66].getD (b.toNat / 16) 0) ∧
      (hexText l)[2 * i + 1]? = some ([0x30, 0x31, 0x32, 0x33, 0x34, 0x35, 0x36, 0x37, 0x38, 0x39, 0x61, 0x62,
        0x63, 0x64, 0x65, 0x66].getD (b.toNat % 16) 0)

/-- What FINISH, TOBIN and TOHEX leave alone, in every state: ALG, NN, VARIANT and the model's own fields but
the two channels (R124 to R126). -/
def Obligations.FinishingFrame : Prop :=
  ∀ (i : Instr) (s t : State), i = .finish ∨ i = .tobin ∨ i = .tohex → exec i s = .next t →
    t.alg = s.alg ∧ t.nn = s.nn ∧ t.variant = s.variant ∧ t.sel = s.sel ∧ t.ports = s.ports ∧
    t.draws = s.draws ∧ t.inbox = s.inbox.tail

/-! ## What cannot be observed -/

/-- Two states that differ only in `PBUF[PLEN..127]`, `H[SW..9]` or `DIG[NN..63]` behave the same under every
command (R34): the same responses, and again states that differ only there. -/
def Obligations.HiddenBytesAreUnobservable : Prop :=
  ∀ s t s' : State, SameObservable s t → s.sel = none → step s = .next s' →
    ∃ t', step t = .next t' ∧ SameObservable s' t'

/-- The implementation variant changes no response but STATUS[15] (R121): steps from two states that differ only
in VARIANT, in VAR bits of waiting INITs and in STATUS[15] of responses lead to two such states. As in every run
from reset, no selector waits. -/
def Obligations.VariantIsInvisible : Prop :=
  ∀ s t s' t' : State, s.forgetVar = t.forgetVar → s.sel = none → step s = .next s' → step t = .next t' →
    s'.forgetVar = t'.forgetVar

/-! ## The padding controller

An internal operation that is performed by itself takes its operands from the `ports` wires and leaves its
result there: the model's choice (notes/assumptions/3.md), since the spec gives the units no register. -/

/-- PAD_MD_LE (R160): the pending bytes, 0x80, z zero bytes and 8 * L in 8 little-endian bytes.
The wires are the model's choice (notes/assumptions/3.md).
For pending bytes or an L outside the rule's range (a buf of BS bytes or more, L of 2^61 or more) the tail is the
model's choice (notes/assumptions/19.md and 20.md). -/
def Obligations.PadMdLeTail : Prop :=
  ∀ s : State,
    let bs := s.ports.bs.bytes
    let n := s.ports.buf.length
    let z := (bs - (n + 9) % bs) % bs
    exec .padMdLe s = .next { s with
      sel := none
      ports := { s.ports with
        tail := s.ports.buf ++ [0x80] ++ List.replicate z 0 ++ bytesLe (8 * s.ports.len.toNat) 8 } }

/-- PAD_MD_BE (R161): the pending bytes, 0x80, z zero bytes and 8 * L in BS / 8 big-endian bytes.
The wires are the model's choice (notes/assumptions/3.md).
For pending bytes or an L outside the rule's range (a buf of BS bytes or more, L of 2^61 or more) the tail is the
model's choice (notes/assumptions/19.md and 20.md). -/
def Obligations.PadMdBeTail : Prop :=
  ∀ s : State,
    let bs := s.ports.bs.bytes
    let n := s.ports.buf.length
    let lf := bs / 8
    let z := (bs - (n + 1 + lf) % bs) % bs
    exec .padMdBe s = .next { s with
      sel := none
      ports := { s.ports with
        tail := s.ports.buf ++ [0x80] ++ List.replicate z 0 ++
          (bytesLe (8 * s.ports.len.toNat) lf).reverse } }

/-- PAD_BLAKE (R162): the pending bytes and zero bytes up to one block.
The wires are the model's choice (notes/assumptions/3.md).
For more than BS pending bytes the tail is the model's choice (notes/assumptions/20.md). -/
def Obligations.PadBlakeTail : Prop :=
  ∀ s : State,
    exec .padBlake s = .next { s with
      sel := none
      ports := { s.ports with
        tail := s.ports.buf ++ List.replicate (s.ports.bs.bytes - s.ports.buf.length) 0 } }

/-- The number of blocks of the final tail (R163, R164): one, or two when the pending bytes leave no room for the
0x80 byte and the length field. -/
def Obligations.TailBlockCounts : Prop :=
  ∀ (bs : BlockSize) (buf : List Byte) (len : Nat),
    (buf.length ≤ bs.bytes - 9 → (padMdLe bs buf len).length = bs.bytes) ∧
    (bs.bytes - 9 < buf.length → buf.length < bs.bytes → (padMdLe bs buf len).length = 2 * bs.bytes) ∧
    (buf.length ≤ bs.bytes - 1 - bs.bytes / 8 → (padMdBe bs buf len).length = bs.bytes) ∧
    (bs.bytes - 1 - bs.bytes / 8 < buf.length → buf.length < bs.bytes →
      (padMdBe bs buf len).length = 2 * bs.bytes) ∧
    (buf.length ≤ bs.bytes → (padBlake bs buf).length = bs.bytes)

/-- The length field holds the exact bit length for every message length the engine accepts (R165): the last
8 bytes little-endian for MD_LE, the last BS / 8 bytes big-endian for MD_BE. -/
def Obligations.LengthFieldIsExact : Prop :=
  ∀ (bs : BlockSize) (buf : List Byte) (len : Nat), len ≤ Config.maxMsgBytes →
    leNat ((padMdLe bs buf len).drop ((padMdLe bs buf len).length - 8)) = 8 * len ∧
    leNat ((padMdBe bs buf len).drop ((padMdBe bs buf len).length - bs.bytes / 8)).reverse = 8 * len

/-! ## The compression units -/

/-- MD5_COMPRESS (R198): 64 steps of R195 with the functions of R191 and the tables of R192 to R194, and the
feed-forward.
The block wires are the model's choice (notes/assumptions/3.md). -/
def Obligations.Md5CompressSteps : Prop :=
  ∀ s : State, ∃ (t : State) (a b c d : Nat → Word32),
    exec .md5Compress s = .next t ∧
    a 0 = h32 s 0 ∧ b 0 = h32 s 1 ∧ c 0 = h32 s 2 ∧ d 0 = h32 s 3 ∧
    (∀ i < 64,
      let f := if i < 16 then (b i &&& c i) ||| (~~~b i &&& d i)
        else if i < 32 then (b i &&& d i) ||| (c i &&& ~~~d i)
        else if i < 48 then b i ^^^ c i ^^^ d i
        else c i ^^^ (b i ||| ~~~d i)
      let v := a i + f + xLe32 s (Rom.md5Idx.getD i 0) + Rom.md5T.getD i 0
      a (i + 1) = d i ∧ b (i + 1) = b i + v.rotateLeft (Rom.md5S.getD i 0) ∧ c (i + 1) = b i ∧
      d (i + 1) = c i) ∧
    UnitResult 4 (fun i => h32 s i + [a 64, b 64, c 64, d 64].getD i 0) s t

/-- RMD128_COMPRESS (R222, R218, R220).
The block wires are the model's choice (notes/assumptions/3.md). -/
def Obligations.Rmd128CompressSteps : Prop :=
  ∀ s : State, ∃ (t : State) (l r : Nat → Line4),
    exec .rmd128Compress s = .next t ∧
    l 0 = ⟨h32 s 0, h32 s 1, h32 s 2, h32 s 3⟩ ∧ r 0 = l 0 ∧
    (∀ j < 64, Pair4 s j (l j) (r j) (l (j + 1)) (r (j + 1))) ∧
    UnitResult 4 (fun i => [h32 s 1 + (l 64).C + (r 64).D, h32 s 2 + (l 64).D + (r 64).A,
      h32 s 3 + (l 64).A + (r 64).B, h32 s 0 + (l 64).B + (r 64).C].getD i 0) s t

/-- RMD160_COMPRESS (R223, R218, R220).
The block wires are the model's choice (notes/assumptions/3.md). -/
def Obligations.Rmd160CompressSteps : Prop :=
  ∀ s : State, ∃ (t : State) (l r : Nat → Line5),
    exec .rmd160Compress s = .next t ∧
    l 0 = ⟨h32 s 0, h32 s 1, h32 s 2, h32 s 3, h32 s 4⟩ ∧ r 0 = l 0 ∧
    (∀ j < 80, Pair5 s j (l j) (r j) (l (j + 1)) (r (j + 1))) ∧
    UnitResult 5 (fun i => [h32 s 1 + (l 80).C + (r 80).D, h32 s 2 + (l 80).D + (r 80).E,
      h32 s 3 + (l 80).E + (r 80).A, h32 s 4 + (l 80).A + (r 80).B,
      h32 s 0 + (l 80).B + (r 80).C].getD i 0) s t

/-- RMD256_COMPRESS (R224, R218, R221): the lines start from the two halves of the state and exchange a word
after each round.
The block wires are the model's choice (notes/assumptions/3.md). -/
def Obligations.Rmd256CompressSteps : Prop :=
  ∀ s : State, ∃ (t : State) (l r l' r' : Nat → Line4),
    exec .rmd256Compress s = .next t ∧
    l 0 = ⟨h32 s 0, h32 s 1, h32 s 2, h32 s 3⟩ ∧ r 0 = ⟨h32 s 4, h32 s 5, h32 s 6, h32 s 7⟩ ∧
    (∀ j < 64, Pair4 s j (l j) (r j) (l' j) (r' j) ∧
      (j % 16 = 15 → Exchange256 (j / 16) (l' j) (r' j) (l (j + 1)) (r (j + 1))) ∧
      (j % 16 ≠ 15 → l (j + 1) = l' j ∧ r (j + 1) = r' j)) ∧
    UnitResult 8 (fun i => h32 s i + [(l 64).A, (l 64).B, (l 64).C, (l 64).D, (r 64).A, (r 64).B, (r 64).C,
      (r 64).D].getD i 0) s t

/-- RMD320_COMPRESS (R225, R218, R221).
The block wires are the model's choice (notes/assumptions/3.md). -/
def Obligations.Rmd320CompressSteps : Prop :=
  ∀ s : State, ∃ (t : State) (l r l' r' : Nat → Line5),
    exec .rmd320Compress s = .next t ∧
    l 0 = ⟨h32 s 0, h32 s 1, h32 s 2, h32 s 3, h32 s 4⟩ ∧
    r 0 = ⟨h32 s 5, h32 s 6, h32 s 7, h32 s 8, h32 s 9⟩ ∧
    (∀ j < 80, Pair5 s j (l j) (r j) (l' j) (r' j) ∧
      (j % 16 = 15 → Exchange320 (j / 16) (l' j) (r' j) (l (j + 1)) (r (j + 1))) ∧
      (j % 16 ≠ 15 → l (j + 1) = l' j ∧ r (j + 1) = r' j)) ∧
    UnitResult 10 (fun i => h32 s i + [(l 80).A, (l 80).B, (l 80).C, (l 80).D, (l 80).E, (r 80).A, (r 80).B,
      (r 80).C, (r 80).D, (r 80).E].getD i 0) s t

/-- SHA1_COMPRESS (R254): the schedule of R251, 80 steps with the functions and constants of R252, and the
feed-forward.
The block wires are the model's choice (notes/assumptions/3.md). -/
def Obligations.Sha1CompressSteps : Prop :=
  ∀ s : State, ∃ (t : State) (W a b c d e : Nat → Word32),
    exec .sha1Compress s = .next t ∧
    (∀ i < 16, W i = xBe32 s i) ∧
    (∀ i, 16 ≤ i → i < 80 → W i = (W (i - 3) ^^^ W (i - 8) ^^^ W (i - 14) ^^^ W (i - 16)).rotateLeft 1) ∧
    a 0 = h32 s 0 ∧ b 0 = h32 s 1 ∧ c 0 = h32 s 2 ∧ d 0 = h32 s 3 ∧ e 0 = h32 s 4 ∧
    (∀ i < 80,
      let f := if i < 20 then (b i &&& c i) ^^^ (~~~b i &&& d i)
        else if i < 40 then b i ^^^ c i ^^^ d i
        else if i < 60 then (b i &&& c i) ^^^ (b i &&& d i) ^^^ (c i &&& d i)
        else b i ^^^ c i ^^^ d i
      let k : Word32 := if i < 20 then 0x5a827999 else if i < 40 then 0x6ed9eba1
        else if i < 60 then 0x8f1bbcdc else 0xca62c1d6
      a (i + 1) = (a i).rotateLeft 5 + f + e i + k + W i ∧ b (i + 1) = a i ∧
      c (i + 1) = (b i).rotateLeft 30 ∧ d (i + 1) = c i ∧ e (i + 1) = d i) ∧
    UnitResult 5 (fun i => h32 s i + [a 80, b 80, c 80, d 80, e 80].getD i 0) s t

/-- SHA256_COMPRESS (R278): the functions of R271, the schedule of R272, the constants of R273.
The block wires are the model's choice (notes/assumptions/3.md). -/
def Obligations.Sha256CompressSteps : Prop :=
  ∀ s : State, ∃ (t : State) (out : Nat → Word32),
    exec .sha256Compress s = .next t ∧
    Sha2Run (w := 32)
      (fun x => x.rotateRight 2 ^^^ x.rotateRight 13 ^^^ x.rotateRight 22)
      (fun x => x.rotateRight 6 ^^^ x.rotateRight 11 ^^^ x.rotateRight 25)
      (fun x => x.rotateRight 7 ^^^ x.rotateRight 18 ^^^ x >>> 3)
      (fun x => x.rotateRight 17 ^^^ x.rotateRight 19 ^^^ x >>> 10)
      (fun i => Rom.sha256K.getD i 0) (xBe32 s) (h32 s) out 64 ∧
    UnitResult 8 out s t

/-- SHA512_COMPRESS (R288): the functions of R287, the schedule of R281, the constants of R282, on native 64-bit
words.
The block wires are the model's choice (notes/assumptions/3.md). -/
def Obligations.Sha512CompressSteps : Prop :=
  ∀ s : State, ∃ (t : State) (out : Nat → Word64),
    exec .sha512Compress s = .next t ∧
    Sha2Run (w := 64)
      (fun x => x.rotateRight 28 ^^^ x.rotateRight 34 ^^^ x.rotateRight 39)
      (fun x => x.rotateRight 14 ^^^ x.rotateRight 18 ^^^ x.rotateRight 41)
      (fun x => x.rotateRight 1 ^^^ x.rotateRight 8 ^^^ x >>> 7)
      (fun x => x.rotateRight 19 ^^^ x.rotateRight 61 ^^^ x >>> 6)
      (fun i => Rom.sha512K.getD i 0) (xBe64 s) (hReg s.h) out 80 ∧
    UnitResult 8 out s t

/-- BLAKE2S_COMPRESS (R316): 10 rounds of R315 with the rotations 16 12 8 7, and the counter words of R313.
The block wires are the model's choice (notes/assumptions/3.md). -/
def Obligations.Blake2sCompressRounds : Prop :=
  ∀ s : State, ∃ (t : State) (out : Nat → Word32),
    exec .blake2sCompress s = .next t ∧
    Blake2Run 16 12 8 7 10 Rom.blake2sIv (xLe32 s) (h32 s) out (BitVec.ofNat 32 s.ports.t.toNat)
      (BitVec.ofNat 32 (s.ports.t.toNat / 2 ^ 32)) s.ports.last ∧
    UnitResult 8 out s t

/-- BLAKE2B_COMPRESS (R317): 12 rounds with the rotations 32 24 16 63, and the counter words of R313.
The block wires are the model's choice (notes/assumptions/3.md). -/
def Obligations.Blake2bCompressRounds : Prop :=
  ∀ s : State, ∃ (t : State) (out : Nat → Word64),
    exec .blake2bCompress s = .next t ∧
    Blake2Run 32 24 16 63 12 Rom.blake2bIv (xLe64 s) (hReg s.h) out (BitVec.ofNat 64 s.ports.t.toNat)
      (BitVec.ofNat 64 (s.ports.t.toNat / 2 ^ 64)) s.ports.last ∧
    UnitResult 8 out s t

/-! ## word64_alu -/

/-- W64_NOT, W64_AND, W64_OR and W64_XOR on halves are the bitwise operations on 64 bits (R342 to R345,
R340).
The wires are the model's choice (notes/assumptions/3.md). -/
def Obligations.W64BitwiseOperations : Prop :=
  ∀ s : State,
    exec .w64Not s = .next { s with sel := none, ports := { s.ports with r := ~~~s.ports.a } } ∧
    exec .w64And s = .next { s with sel := none, ports := { s.ports with r := s.ports.a &&& s.ports.b } } ∧
    exec .w64Or s = .next { s with sel := none, ports := { s.ports with r := s.ports.a ||| s.ports.b } } ∧
    exec .w64Xor s = .next { s with sel := none, ports := { s.ports with r := s.ports.a ^^^ s.ports.b } }

/-- W64_ADD on halves is addition modulo 2^64 (R346, R340).
The wires are the model's choice (notes/assumptions/3.md). -/
def Obligations.W64AddIsAddition : Prop :=
  ∀ s : State,
    exec .w64Add s = .next { s with sel := none, ports := { s.ports with r := s.ports.a + s.ports.b } }

/-- W64_ROTR on halves is rotation by AMT in 0..63, and W64_SHR is the zero-filled shift by AMT in 0..64
(R347, R348, R340).
The wires are the model's choice (notes/assumptions/3.md). -/
def Obligations.W64RotateAndShift : Prop :=
  ∀ (amt : BitVec 7) (s : State),
    (amt.toNat ≤ 63 → exec (.w64Rotr amt) s =
      .next { s with sel := none, ports := { s.ports with r := s.ports.a.rotateRight amt.toNat } }) ∧
    (amt.toNat ≤ 64 → exec (.w64Shr amt) s =
      .next { s with sel := none, ports := { s.ports with r := s.ports.a >>> amt.toNat } })

/-- P_NATIVE64 changes no result of the 64-bit units (R340, R283). -/
def Obligations.NativeAndHalvesUnitsAgree : Prop :=
  ∀ (h : HRegs) (blk : List Byte) (t : BitVec 128) (last : Bool),
    sha512Unit false h blk = sha512Unit true h blk ∧ blake2bUnit false h blk t last = blake2bUnit true h blk t last
end

