-- ==== Sys2Proof/Laws/Alu64.lean ====
section
/-!
SUPPORT. The halves of a 64-bit word, bit by bit (47_word64_alu R341).
-/

namespace Sys2Proof.Machine

theorem hi32_getLsbD (x : Word64) (i : Nat) : (hi32 x).getLsbD i = (decide (i < 32) && x.getLsbD (32 + i)) := by
  simp only [hi32, BitVec.getLsbD_extractLsb']

theorem lo32_getLsbD (x : Word64) (i : Nat) : (lo32 x).getLsbD i = (decide (i < 32) && x.getLsbD i) := by
  simp only [lo32, BitVec.getLsbD_extractLsb', Nat.zero_add]

theorem join64_getLsbD (h l : Word32) (i : Nat) :
    (join64 h l).getLsbD i = if i < 32 then l.getLsbD i else h.getLsbD (i - 32) :=
  (BitVec.getLsbD_append (x := h) (y := l) (i := i)).trans rfl

end Sys2Proof.Machine
end

