-- ==== Sys2Proof/Laws/Engine.lean ====
section
/-!
SUPPORT. What each operation can do, case by case: the host commands (40_engine), the internal operations, and a
step. The provers cite these cases and do not unfold the meanings.
-/

namespace Sys2Proof.Machine

/-! ## INIT and STAT -/

theorem execInit_cases (algid : BitVec 8) (nnreq : BitVec 7) (var : BitVec 1) (s : State) :
    (s.payload ≠ [] ∧ execInit algid nnreq var s = .next (reject .illegalCmd s)) ∨
    (s.payload = [] ∧ requestedAlg algid nnreq = none ∧
      execInit algid nnreq var s = .next (reject .unknownAlg s)) ∨
    (s.payload = [] ∧ ∃ a, requestedAlg algid nnreq = some a ∧
      execInit algid nnreq var s = .next (accept [] (initRegs a (a.digestLen nnreq) var s))) := by
  unfold execInit
  by_cases hp : s.payload = []
  · cases h : requestedAlg algid nnreq with
    | none => exact .inr (.inl ⟨hp, rfl, by simp [hp]⟩)
    | some a => exact .inr (.inr ⟨hp, a, rfl, by simp [hp]⟩)
  · exact .inl ⟨hp, by simp [hp]⟩

/-- What an accepted INIT requests (30_encoding R84, R85). -/
theorem requestedAlg_some {algid : BitVec 8} {nnreq : BitVec 7} {a : Alg} :
    requestedAlg algid nnreq = some a ↔ Alg.ofId algid = some a ∧ a.nnLegal nnreq = true := by
  unfold requestedAlg
  cases Alg.ofId algid with
  | none => simp
  | some b =>
    simp only [Option.some.injEq]
    by_cases hb : b.nnLegal nnreq = true
    · simp only [hb, if_true, Option.some.injEq]
      exact ⟨fun e => ⟨e, e ▸ hb⟩, fun e => e.1⟩
    · simp only [hb]
      exact ⟨fun e => by simp at e, fun e => absurd (e.1 ▸ e.2) hb⟩

@[simp] theorem ofId_id (a : Alg) : Alg.ofId a.id = some a := by cases a <;> rfl

theorem execStat_cases (s : State) :
    (s.payload ≠ [] ∧ execStat s = .next (reject .illegalCmd s)) ∨
    (s.payload = [] ∧ execStat s = .next (respond .ok [] s)) := by
  unfold execStat
  by_cases hp : s.payload = []
  · exact .inr ⟨hp, by simp [hp]⟩
  · exact .inl ⟨hp, by simp [hp]⟩

/-! ## ADD -/

/-- ADD completes, with what it needs and what it does, or it is rejected (R122, 60_exceptions R371). -/
theorem execAdd_cases (n : BitVec 24) (s : State) :
    (∃ c, execAdd n s = .next (reject c s) ∧
      ((s.payload.length ≠ n.toNat ∧ c = .illegalCmd) ∨
       (s.payload.length = n.toNat ∧ s.fatal = true ∧ c = .fatalState) ∨
       (s.payload.length = n.toNat ∧ s.fatal = false ∧ s.alg = none ∧ c = .noAlg) ∨
       (s.payload.length = n.toNat ∧ s.fatal = false ∧ s.alg ≠ none ∧ s.fin = true ∧ c = .finalized) ∨
       (s.payload.length = n.toNat ∧ s.fatal = false ∧ s.alg ≠ none ∧ s.fin = false ∧
        Config.maxMsgBytes < s.msgLen + n.toNat ∧ c = .lengthLimit))) ∨
    (∃ a t, s.payload.length = n.toNat ∧ s.fatal = false ∧ s.alg = some a ∧ s.fin = false ∧
      s.msgLen + n.toNat ≤ Config.maxMsgBytes ∧ absorb a s.payload s = .ok t ∧ SameButStream s t ∧
      execAdd n s = .next (accept [] t)) := by
  unfold execAdd
  cases ha : checkSelected n.toNat s with
  | error c =>
    refine .inl ⟨c, rfl, ?_⟩
    rcases checkSelected_error.mp ha with ⟨h1, h2⟩ | ⟨h1, h2, h3⟩ | ⟨h1, h2, h3, h4⟩
    · exact .inl ⟨h1, h2⟩
    · exact .inr (.inl ⟨h1, h2, h3⟩)
    · exact .inr (.inr (.inl ⟨h1, h2, h3, h4⟩))
  | ok a =>
    obtain ⟨h1, h2, h3⟩ := checkSelected_ok.mp ha
    have h3' : s.alg ≠ none := by simp [h3]
    cases hf : s.fin with
    | true => exact .inl ⟨_, by simp, .inr (.inr (.inr (.inl ⟨h1, h2, h3', rfl, rfl⟩)))⟩
    | false =>
      by_cases hl : Config.maxMsgBytes < s.msgLen + n.toNat
      · exact .inl ⟨_, by simp [hl], .inr (.inr (.inr (.inr ⟨h1, h2, h3', rfl, hl, rfl⟩)))⟩
      · obtain ⟨t, e, f⟩ := absorb_ok a s.payload s
        exact .inr ⟨a, t, h1, h2, h3, rfl, Nat.not_lt.mp hl, e, f, by simp [hl, e]⟩

/-! ## FINISH, TOBIN, TOHEX -/

/-- The padded tail of the pending bytes (R124). -/
def tailOf (a : Alg) (s : State) : List Byte :=
  match a.desc.scheme with
  | .mdLe => padMdLe a.desc.bs s.pending s.msgLen
  | .mdBe => padMdBe a.desc.bs s.pending s.msgLen
  | .blake => padBlake a.desc.bs s.pending

/-- FINISH's body: nothing, or the sealed message, or E_PAD_INTERNAL for a BLAKE tail that is not a whole number
of blocks (R124). -/
theorem finishBody_cases (a : Alg) (s : State) :
    (s.fin = true ∧ finishBody a s = .ok s) ∨
    (s.fin = false ∧ 0 < (tailOf a s).length ∧ (tailOf a s).length % a.desc.bs.bytes = 0 ∧
      ∃ h, compressTail a (BitVec.ofNat 128 s.msgLen) (a.desc.scheme == .blake)
          ((tailOf a s).length / a.desc.bs.bytes) (tailOf a s) s.h = .ok h ∧
        finishBody a s = .ok (sealMessage a s.msgLen h s)) ∨
    (s.fin = false ∧ a.desc.scheme = .blake ∧ a.desc.bs.bytes < s.pending.length ∧
      ((tailOf a s).length = 0 ∨ (tailOf a s).length % a.desc.bs.bytes ≠ 0) ∧
      finishBody a s = .error .padInternal) := by
  unfold finishBody
  cases hf : s.fin with
  | true => exact .inl ⟨rfl, rfl⟩
  | false =>
    right
    have e : padTail a.desc.scheme.padsel a.desc.bs s.pending s.msgLen = .ok (tailOf a s) :=
      padTail_scheme _ _ _ _
    simp only [e]
    by_cases hw : (tailOf a s).length = 0 ∨ (tailOf a s).length % a.desc.bs.bytes ≠ 0
    · refine .inr ⟨trivial, ?_⟩
      have hn : ¬ (a.desc.scheme = .blake → s.pending.length ≤ a.desc.bs.bytes) := by
        intro h
        obtain ⟨tail, e', p, q⟩ := padTail_wellFormed a.desc.scheme a.desc.bs s.pending s.msgLen h
        obtain rfl := Except.ok.inj (e.symm.trans e')
        omega
      obtain ⟨h1, h2⟩ := Classical.not_imp.mp hn
      exact ⟨h1, Nat.not_le.mp h2, hw, by rw [if_pos hw]; rfl⟩
    · left
      obtain ⟨h, eh⟩ := compressTail_ok a (BitVec.ofNat 128 s.msgLen) (a.desc.scheme == .blake)
        ((tailOf a s).length / a.desc.bs.bytes) (tailOf a s) s.h
      refine ⟨trivial, by omega, by omega, h, eh, ?_⟩
      rw [if_neg hw, eh]
      rfl

/-- A finishing command is rejected, or completes, or fails fatally (R124 to R126, 60_exceptions R371, R377). -/
theorem finishing_cases (data : State → List Byte) (s : State) :
    (∃ c, finishing data s = .next (reject c s) ∧
      ((s.payload ≠ [] ∧ c = .illegalCmd) ∨ (s.payload = [] ∧ s.fatal = true ∧ c = .fatalState) ∨
       (s.payload = [] ∧ s.fatal = false ∧ s.alg = none ∧ c = .noAlg))) ∨
    (∃ a t, s.payload = [] ∧ s.fatal = false ∧ s.alg = some a ∧ finishBody a s = .ok t ∧
      finishing data s = .next (accept (data t) t)) ∨
    (∃ a, s.payload = [] ∧ s.fatal = false ∧ s.alg = some a ∧ finishBody a s = .error .padInternal ∧
      finishing data s = .next (failFatal .padInternal s)) := by
  unfold finishing
  cases ha : checkSelected 0 s with
  | error c =>
    refine .inl ⟨c, rfl, ?_⟩
    simpa using checkSelected_error.mp ha
  | ok a =>
    right
    obtain ⟨h1, h2, h3⟩ := checkSelected_ok.mp ha
    have h1' := List.length_eq_zero_iff.mp h1
    rcases finishBody_cases a s with ⟨-, e⟩ | ⟨-, -, -, h, -, e⟩ | ⟨-, -, -, -, e⟩
    · exact .inl ⟨a, s, h1', h2, h3, e, by simp [e]⟩
    · exact .inl ⟨a, _, h1', h2, h3, e, by simp [e]⟩
    · exact .inr ⟨a, h1', h2, h3, e, by simp [e]⟩

/-- What FINISH's body leaves alone. -/
theorem finishBody_frame {a : Alg} {s t : State} (e : finishBody a s = .ok t) :
    t.alg = s.alg ∧ t.nn = s.nn ∧ t.variant = s.variant ∧ t.fin = true ∧ t.fatal = s.fatal ∧
    t.lasterr = s.lasterr ∧ t.inbox = s.inbox ∧ t.outbox = s.outbox ∧ t.sel = s.sel ∧ t.ports = s.ports ∧
    t.draws = s.draws := by
  rcases finishBody_cases a s with ⟨h, e'⟩ | ⟨-, -, -, h, -, e'⟩ | ⟨-, -, -, -, e'⟩
  · rw [e'] at e; cases e; exact ⟨rfl, rfl, rfl, h, rfl, rfl, rfl, rfl, rfl, rfl, rfl⟩
  · rw [e'] at e; cases e; exact ⟨rfl, rfl, rfl, rfl, rfl, rfl, rfl, rfl, rfl, rfl, rfl⟩
  · rw [e'] at e; cases e

/-- A legal digest length is at most the state's words, and at most DIG's 64 bytes (10_state R22). -/
theorem nnLegal_le {a : Alg} {n : BitVec 7} (h : a.nnLegal n = true) :
    n.toNat ≤ a.desc.sw * (a.desc.width.bits / 8) ∧ n.toNat ≤ 64 := by
  revert h; revert n; cases a <;> decide +kernel

/-- `DIG[0..NN)` after the digest is written is the serialized state (R124, 20_memory R64). -/
theorem writeDigest_digest {a : Alg} {s : State} (h : a.nnLegal s.nn = true) :
    (writeDigest a s).digest = serialize a.desc.endian a.desc.width.bits a.desc.sw s.nn.toNat s.h := by
  have ⟨h1, h2⟩ := nnLegal_le h
  unfold State.digest writeDigest
  simp only [tab_toList]
  apply List.ext_getElem
  · simp; omega
  · intro i h3 h4
    simp at h3 h4
    simp [h4]

/-! ## Host commands, all six -/

/-- What a host command can do: `HostCase i s t` lists every way in which `exec i s` gives `t`. -/
inductive HostCase (i : Instr) (s : State) : State → Prop where
  /-- rejection (60_exceptions R372) -/
  | rejected (c : ResultCode)
      (code : c ∈ [ResultCode.illegalCmd, .unknownAlg, .noAlg, .finalized, .lengthLimit, .fatalState]) :
      HostCase i s (reject c s)
  /-- STAT -/
  | read (instr : i = .stat) (payload : s.payload = []) : HostCase i s (respond .ok [] s)
  /-- INIT, accepted -/
  | started (algid : BitVec 8) (nnreq : BitVec 7) (var : BitVec 1) (a : Alg)
      (instr : i = .init algid nnreq var) (payload : s.payload = []) (alg : requestedAlg algid nnreq = some a) :
      HostCase i s (accept [] (initRegs a (a.digestLen nnreq) var s))
  /-- ADD, accepted -/
  | added (n : BitVec 24) (a : Alg) (u : State) (instr : i = .add n) (payload : s.payload.length = n.toNat)
      (fatal : s.fatal = false) (alg : s.alg = some a) (fin : s.fin = false)
      (limit : s.msgLen + n.toNat ≤ Config.maxMsgBytes) (loop : absorb a s.payload s = .ok u)
      (frame : SameButStream s u) : HostCase i s (accept [] u)
  /-- FINISH, TOBIN or TOHEX, completed -/
  | finished (a : Alg) (u : State) (data : List Byte) (instr : i = .finish ∨ i = .tobin ∨ i = .tohex)
      (payload : s.payload = []) (fatal : s.fatal = false) (alg : s.alg = some a)
      (body : finishBody a s = .ok u) : HostCase i s (accept data u)
  /-- FINISH, TOBIN or TOHEX with a malformed tail -/
  | malformed (a : Alg) (instr : i = .finish ∨ i = .tobin ∨ i = .tohex) (payload : s.payload = [])
      (fatal : s.fatal = false) (alg : s.alg = some a) (body : finishBody a s = .error .padInternal) :
      HostCase i s (failFatal .padInternal s)

theorem finishing_hostCase {i : Instr} (data : State → List Byte) {s : State}
    (hi : i = .finish ∨ i = .tobin ∨ i = .tohex) (he : exec i s = finishing data s) :
    ∃ t, exec i s = .next t ∧ HostCase i s t := by
  rcases finishing_cases data s with ⟨c, h, hc⟩ | ⟨a, t, h1, h2, h3, h4, h⟩ | ⟨a, h1, h2, h3, h4, h⟩
  · exact ⟨_, he.trans h, .rejected c (by rcases hc with h | h | h <;> simp [h])⟩
  · exact ⟨_, he.trans h, .finished a t _ hi h1 h2 h3 h4⟩
  · exact ⟨_, he.trans h, .malformed a hi h1 h2 h3 h4⟩

theorem exec_host_cases (i : Instr) (hi : i.isHostCommand = true) (s : State) :
    ∃ t, exec i s = .next t ∧ HostCase i s t := by
  cases i with
  | stat =>
    rcases execStat_cases s with ⟨-, h⟩ | ⟨p, h⟩
    · exact ⟨_, h, .rejected _ (by simp)⟩
    · exact ⟨_, h, .read rfl p⟩
  | init algid nnreq var =>
    rcases execInit_cases algid nnreq var s with ⟨-, h⟩ | ⟨-, -, h⟩ | ⟨p, a, q, h⟩
    · exact ⟨_, h, .rejected _ (by simp)⟩
    · exact ⟨_, h, .rejected _ (by simp)⟩
    · exact ⟨_, h, .started _ _ _ a rfl p q⟩
  | add n =>
    rcases execAdd_cases n s with ⟨c, h, hc⟩ | ⟨a, u, h1, h2, h3, h4, h5, h6, h7, h⟩
    · exact ⟨_, h, .rejected c (by rcases hc with h | h | h | h | h <;> simp [h])⟩
    · exact ⟨_, h, .added n a u rfl h1 h2 h3 h4 h5 h6 h7⟩
  | finish => exact finishing_hostCase _ (by simp) rfl
  | tobin => exact finishing_hostCase _ (by simp) rfl
  | tohex => exact finishing_hostCase _ (by simp) rfl
  | _ => cases hi

/-- The same, for a next state that is given. -/
theorem HostCase.of_exec {i : Instr} {s t : State} (hi : i.isHostCommand = true) (h : exec i s = .next t) :
    HostCase i s t := by
  obtain ⟨t', h', c⟩ := exec_host_cases i hi s
  obtain rfl := Host.Outcome.next.inj (h'.symm.trans h)
  exact c

/-! ## Internal operations -/

/-- An internal operation writes H or the wires and consumes its selector, or it is E_UNIT_RESERVED. -/
theorem exec_internal_cases (i : Instr) (hi : i.isHostCommand = false) (s : State) :
    exec i s = .next (unitReservedAlone s) ∨
    ∃ (h : HRegs) (p : Ports), exec i s = .next (unitDone { s with h := h, ports := p }) := by
  cases i with
  | stat | init | add | finish | tobin | tohex => cases hi
  | w64Rotr amt =>
    by_cases h : amt.toNat ≤ 63
    · exact .inr ⟨_, _, by simp only [exec, execW64Rotr, w64Op, h, decide_true, if_true]; rfl⟩
    · exact .inl (by simp [exec, execW64Rotr, w64Op, h])
  | w64Shr amt =>
    by_cases h : amt.toNat ≤ 64
    · exact .inr ⟨_, _, by simp only [exec, execW64Shr, w64Op, h, decide_true, if_true]; rfl⟩
    · exact .inl (by simp [exec, execW64Shr, w64Op, h])
  | _ => exact .inr ⟨_, _, rfl⟩

/-! ## Decoding and steps -/

/-- A decoded command word is a host command (30_encoding R83, R91). -/
theorem decodeCommand_host {cw : BitVec 32} {i : Instr} (h : decodeCommand cw = .ok i) :
    i.isHostCommand = true := by
  simp only [decodeCommand, ifReservedZero] at h
  split at h <;> first
    | (split at h <;> cases h; rfl)
    | cases h

/-- A decoded selector is an internal operation (30_encoding R91). -/
theorem decodeSelector_internal {v : Selector} {i : Instr} (h : decodeSelector v = .ok i) :
    i.isHostCommand = false := by
  cases v with
  | padsel v => simp only [decodeSelector, decodePadsel] at h; split at h <;> cases h <;> rfl
  | csel v => simp only [decodeSelector, decodeCsel] at h; split at h <;> cases h <;> rfl
  | w64ctl v =>
    simp only [decodeSelector, decodeW64ctl, ifAmtZero] at h
    split at h <;> first
      | (split at h <;> cases h; rfl)
      | (cases h; rfl)
      | cases h

/-- What a step performs, case by case. -/
theorem step_cases (s : State) :
    (s.sel = none ∧ s.inbox = [] ∧ step s = .next s) ∨
    (∃ tx rest e, s.sel = none ∧ s.inbox = tx :: rest ∧ decodeCommand tx.cw = .error e ∧
      step s = .next (reject .illegalCmd s)) ∨
    (∃ tx rest i, s.sel = none ∧ s.inbox = tx :: rest ∧ decodeCommand tx.cw = .ok i ∧
      i.isHostCommand = true ∧ step s = exec i s) ∨
    (∃ v e, s.sel = some v ∧ decodeSelector v = .error e ∧ step s = .next (unitReservedAlone s)) ∨
    (∃ v i, s.sel = some v ∧ decodeSelector v = .ok i ∧ i.isHostCommand = false ∧ step s = exec i s) := by
  unfold step fetch
  cases hs : s.sel with
  | none =>
    cases hb : s.inbox with
    | nil => exact .inl ⟨rfl, rfl, rfl⟩
    | cons tx rest =>
      cases hd : decodeCommand tx.cw with
      | error e => exact .inr (.inl ⟨tx, rest, e, rfl, rfl, hd, by simp [hd]; rfl⟩)
      | ok i => exact .inr (.inr (.inl ⟨tx, rest, i, rfl, rfl, hd, decodeCommand_host hd, by simp [hd]⟩))
  | some v =>
    cases hd : decodeSelector v with
    | error e => exact .inr (.inr (.inr (.inl ⟨v, e, rfl, hd, by simp [hd]; rfl⟩)))
    | ok i => exact .inr (.inr (.inr (.inr ⟨v, i, rfl, hd, decodeSelector_internal hd, by simp [hd]⟩)))

end Sys2Proof.Machine
end

