-- ==== Sys2Proof/Laws/PerInstr.lean ====
section
/-!
SUPPORT. Per instruction: which encodings the host can issue. A host command is a command word and an internal
operation is a selector, never the other way round (30_encoding R81, R91).
-/

namespace Sys2Proof.Laws.HostReach

/-- The encoding is a command word for the six host commands, and a selector for the others. -/
def Statement (i : Instr) : Prop :=
  match encode i with
  | .command _ => i.isHostCommand = true
  | .selector _ => i.isHostCommand = false

theorem stat : Statement .stat := rfl
theorem init (algid : BitVec 8) (nnreq : BitVec 7) (var : BitVec 1) : Statement (.init algid nnreq var) := rfl
theorem add (n : BitVec 24) : Statement (.add n) := rfl
theorem finish : Statement .finish := rfl
theorem tobin : Statement .tobin := rfl
theorem tohex : Statement .tohex := rfl
theorem padMdLe : Statement .padMdLe := rfl
theorem padMdBe : Statement .padMdBe := rfl
theorem padBlake : Statement .padBlake := rfl
theorem md5Compress : Statement .md5Compress := rfl
theorem rmd128Compress : Statement .rmd128Compress := rfl
theorem rmd160Compress : Statement .rmd160Compress := rfl
theorem rmd256Compress : Statement .rmd256Compress := rfl
theorem rmd320Compress : Statement .rmd320Compress := rfl
theorem sha1Compress : Statement .sha1Compress := rfl
theorem sha256Compress : Statement .sha256Compress := rfl
theorem sha512Compress : Statement .sha512Compress := rfl
theorem blake2sCompress : Statement .blake2sCompress := rfl
theorem blake2bCompress : Statement .blake2bCompress := rfl
theorem w64Not : Statement .w64Not := rfl
theorem w64And : Statement .w64And := rfl
theorem w64Or : Statement .w64Or := rfl
theorem w64Xor : Statement .w64Xor := rfl
theorem w64Add : Statement .w64Add := rfl
theorem w64Rotr (amt : BitVec 7) : Statement (.w64Rotr amt) := rfl
theorem w64Shr (amt : BitVec 7) : Statement (.w64Shr amt) := rfl

end Sys2Proof.Laws.HostReach
end

