-- ==== Sys2Proof/WellFormed.lean ====
section
/-!
DEFINITION. Well-formed instructions: those whose operand fields hold a value for which the spec gives the
operation its own effect. An ill-formed one is still decoded and executed: INIT is then rejected with
E_UNKNOWN_ALG (60_exceptions R373), a rotate or shift raises E_UNIT_RESERVED (47_word64_alu R349).
-/

namespace Sys2Proof

/-- The operand checks: INIT's ALGID and NNREQ (30_encoding R84, R85), W64_ROTR's AMT in 0..63 and W64_SHR's
AMT in 0..64 (R94). The other operations have no operand value outside their rule. -/
def Instr.wellFormed : Instr → Bool
  | .init algid nnreq _ =>
    match Machine.Alg.ofId algid with
    | some a => a.nnLegal nnreq
    | none => false
  | .w64Rotr amt => amt.toNat ≤ 63
  | .w64Shr amt => amt.toNat ≤ 64
  | .stat | .add _ | .finish | .tobin | .tohex | .padMdLe | .padMdBe | .padBlake => true
  | .md5Compress | .rmd128Compress | .rmd160Compress | .rmd256Compress | .rmd320Compress => true
  | .sha1Compress | .sha256Compress | .sha512Compress | .blake2sCompress | .blake2bCompress => true
  | .w64Not | .w64And | .w64Or | .w64Xor | .w64Add => true

end Sys2Proof
end

