-- ==== Sys2Proof/Tests/Slice0.lean ====
section
/-!
SUPPORT. The model's own tests: well-formedness, decoding of words written out from spec/30_encoding.md, single
steps against the values of spec/95_test_vectors.md, and a witness for every statement that has hypotheses.
-/

open Sys2Proof Sys2Proof.Machine Sys2Proof.Claims

namespace Sys2Proof.Tests

set_option Elab.async false

/-! ## Small states -/

/-- The next state of an outcome. -/
def nx (o : Host.Outcome State Fault Refusal) : State :=
  match o with
  | .next s => s
  | .fault _ => State.reset
  | .refused _ => State.reset

/-- A state whose oldest transaction is the given one. -/
def issued (s : State) (tx : Transaction) : State := { s with inbox := [tx] }

/-- Right after INIT of an algorithm with its default digest length. -/
def fresh (a : Alg) : State := { State.reset with alg := some a, nn := a.desc.nn, h := a.initH a.desc.nn }

/-- The fatal state of 95_test_vectors L2 section 2: ALG = 0x01, NN = 16, FATAL = 1. -/
def fatalMd5 : State := { fresh .md5 with fatal := true }

/-- A finished state of SHA-256. -/
def finishedSha256 : State := { fresh .sha256 with fin := true }

/-- The length-limit state of 95_test_vectors L2 section 2. -/
def nearLimit (plen : BitVec 8) : State := { fresh .sha256 with count := 0x1FFFFFFFFFFFFFC0, plen := plen }

/-- A state with a block, a counter and a flag on the unit wires and an algorithm's IV in H. -/
def unitState (a : Alg) (blk : Nat → Byte) (t : BitVec 128) (last : Bool) : State :=
  { State.reset with h := a.initH a.desc.nn, ports := { Ports.reset with blk := tab 128 blk, t := t, last := last } }

/-- A state with word64_alu operands. -/
def aluState (a b : Word64) : State := { State.reset with ports := { Ports.reset with a := a, b := b } }

/-- A state with padding operands: `n` bytes of 0x61, L = n. -/
def padState (bs : BlockSize) (n : Nat) : State :=
  { State.reset with ports := { Ports.reset with bs := bs, buf := List.replicate n 0x61, len := BitVec.ofNat 64 n } }

/-- The padded block of "abc" for MD_LE, 64 bytes. -/
def abcLe (i : Nat) : Byte :=
  match i with
  | 0 => 0x61 | 1 => 0x62 | 2 => 0x63 | 3 => 0x80 | 56 => 0x18 | _ => 0

/-- The padded block of "abc" for MD_BE, 64 bytes. -/
def abcBe64 (i : Nat) : Byte :=
  match i with
  | 0 => 0x61 | 1 => 0x62 | 2 => 0x63 | 3 => 0x80 | 63 => 0x18 | _ => 0

/-- The padded block of "abc" for MD_BE, 128 bytes. -/
def abcBe128 (i : Nat) : Byte :=
  match i with
  | 0 => 0x61 | 1 => 0x62 | 2 => 0x63 | 3 => 0x80 | 127 => 0x18 | _ => 0

/-- The padded block of "abc" for BLAKE. -/
def abcBlake (i : Nat) : Byte :=
  match i with
  | 0 => 0x61 | 1 => 0x62 | 2 => 0x63 | _ => 0

/-- H[0] and the last word a unit writes. -/
def ends (n : Nat) (s : State) : Word64 × Word64 := (hReg s.h 0, hReg s.h (n - 1))

/-! ## Well-formedness: one ill-formed term for each check -/

theorem test_wf_init_unknown_algid : (Instr.init 0x00 0 0).wellFormed = false := by decide
theorem test_wf_init_reserved_algid : (Instr.init 0x0F 0 0).wellFormed = false := by decide
theorem test_wf_init_fixed_length : (Instr.init 0x08 28 0).wellFormed = false := by decide
theorem test_wf_init_blake2s_length : (Instr.init 0x0D 33 0).wellFormed = false := by decide
theorem test_wf_init_blake2b_length : (Instr.init 0x0E 65 0).wellFormed = false := by decide
theorem test_wf_rotr_amount : (Instr.w64Rotr 64).wellFormed = false := by decide
theorem test_wf_shr_amount : (Instr.w64Shr 65).wellFormed = false := by decide
theorem test_wf_legal : (Instr.init 0x0E 64 1).wellFormed = true ∧ (Instr.w64Rotr 63).wellFormed = true ∧
    (Instr.w64Shr 64).wellFormed = true := by decide

/-! ## Decoding: every constructor, from a word written out from 30_encoding R81 to R87 and R92 to R94 -/

/-- OP 0, operand 0. -/
theorem test_decode_stat : decodeCommand 0b00000000000000000000000000000000 = .ok .stat := by decide
/-- OP 1, [27:16] = 0, VAR 1, NNREQ 0110000 (48), ALGID 00001110 (blake2b). -/
theorem test_decode_init : decodeCommand 0b00010000000000001011000000001110 = .ok (.init 0x0E 48 1) := by decide
/-- OP 2, [27:24] = 0, N = all ones. -/
theorem test_decode_add : decodeCommand 0b00100000111111111111111111111111 = .ok (.add 0xFFFFFF) := by decide
theorem test_decode_finish : decodeCommand 0b00110000000000000000000000000000 = .ok .finish := by decide
theorem test_decode_tobin : decodeCommand 0b01000000000000000000000000000000 = .ok .tobin := by decide
theorem test_decode_tohex : decodeCommand 0b01010000000000000000000000000000 = .ok .tohex := by decide
theorem test_decode_padMdLe : decodeSelector (.padsel 0b00) = .ok .padMdLe := by decide
theorem test_decode_padMdBe : decodeSelector (.padsel 0b01) = .ok .padMdBe := by decide
theorem test_decode_padBlake : decodeSelector (.padsel 0b10) = .ok .padBlake := by decide
theorem test_decode_md5Compress : decodeSelector (.csel 0b0000) = .ok .md5Compress := by decide
theorem test_decode_rmd128Compress : decodeSelector (.csel 0b0001) = .ok .rmd128Compress := by decide
theorem test_decode_rmd160Compress : decodeSelector (.csel 0b0010) = .ok .rmd160Compress := by decide
theorem test_decode_rmd256Compress : decodeSelector (.csel 0b0011) = .ok .rmd256Compress := by decide
theorem test_decode_rmd320Compress : decodeSelector (.csel 0b0100) = .ok .rmd320Compress := by decide
theorem test_decode_sha1Compress : decodeSelector (.csel 0b0101) = .ok .sha1Compress := by decide
theorem test_decode_sha256Compress : decodeSelector (.csel 0b0110) = .ok .sha256Compress := by decide
theorem test_decode_sha512Compress : decodeSelector (.csel 0b0111) = .ok .sha512Compress := by decide
theorem test_decode_blake2sCompress : decodeSelector (.csel 0b1000) = .ok .blake2sCompress := by decide
theorem test_decode_blake2bCompress : decodeSelector (.csel 0b1001) = .ok .blake2bCompress := by decide
theorem test_decode_w64Not : decodeSelector (.w64ctl 0b0000000000) = .ok .w64Not := by decide
theorem test_decode_w64And : decodeSelector (.w64ctl 0b0010000000) = .ok .w64And := by decide
theorem test_decode_w64Or : decodeSelector (.w64ctl 0b0100000000) = .ok .w64Or := by decide
theorem test_decode_w64Xor : decodeSelector (.w64ctl 0b0110000000) = .ok .w64Xor := by decide
theorem test_decode_w64Add : decodeSelector (.w64ctl 0b1000000000) = .ok .w64Add := by decide
/-- W64OP 101, AMT 0111111 (63): 95_test_vectors L2 section 9, 0x2BF. -/
theorem test_decode_w64Rotr : decodeSelector (.w64ctl 0b1010111111) = .ok (.w64Rotr 63) := by decide
/-- W64OP 110, AMT 1000000 (64): 0x340. -/
theorem test_decode_w64Shr : decodeSelector (.w64ctl 0b1101000000) = .ok (.w64Shr 64) := by decide

/-- Reserved words of 30_encoding R89, R92 to R94, by the name of the reason. -/
theorem test_decode_reserved :
    decodeCommand 0xF0000000 = .error .illegalOp ∧ decodeCommand 0x18000001 = .error .reservedBits ∧
    decodeCommand 0x21000000 = .error .reservedBits ∧ decodeCommand 0x50000010 = .error .reservedBits ∧
    decodeSelector (.padsel 3) = .error .reservedPadsel ∧ decodeSelector (.csel 0xA) = .error .reservedCsel ∧
    decodeSelector (.w64ctl 0x380) = .error .reservedW64op ∧
    decodeSelector (.w64ctl 0x001) = .error .reservedAmt := by decide

/-- The table's numbering: a 32-bit word is a command, a 16-bit one a W64CTL, an 8-bit one a CSEL and a 2-bit one a
PADSEL. -/
theorem test_table_words :
    decodeTableWord 32 0x30000000 = some .finish ∧ decodeTableWord 16 0x284 = some (.w64Rotr 4) ∧
    decodeTableWord 8 0x6 = some .sha256Compress ∧ decodeTableWord 2 0x2 = some .padBlake := by decide

/-- A placed word is what the next step performs. -/
theorem test_withFetchWord :
    fetch (State.reset.withFetchWord 32 0x20000002) = .instr (.add 2) ∧
    fetch (State.reset.withFetchWord 16 0x340) = .instr (.w64Shr 64) := by decide

/-! ## Host commands, one step each (95_test_vectors L2 sections 1 and 2) -/

/-- Fatal-state table, row 1: STAT reads 0x00021001 and is answered OK. -/
theorem test_stat_fatal : (nx (step (issued fatalMd5 ⟨0x00000000, []⟩))).outbox = [⟨.ok, 0x00021001, []⟩] := by
  decide +kernel
/-- STAT with CW[0] = 1: E_ILLEGAL_CMD, STATUS 0x00100000. -/
theorem test_stat_illegal :
    (nx (step (issued State.reset ⟨0x00000001, []⟩))).outbox = [⟨.illegalCmd, 0x00100000, []⟩] := by
  decide +kernel
/-- `INIT blake2b, unrolled, nn=48`: STATUS 0x0000B00E. -/
theorem test_init_blake2b :
    (nx (step (issued State.reset ⟨0x1000B00E, []⟩))).outbox = [⟨.ok, 0x0000B00E, []⟩] := by decide +kernel
/-- Fatal-state table, row 7: `INIT 0x0F` leaves FATAL set, STATUS 0x00221001. -/
theorem test_init_fatal :
    (nx (step (issued fatalMd5 ⟨0x1000000F, []⟩))).outbox = [⟨.unknownAlg, 0x00221001, []⟩] := by decide +kernel
/-- BLAKE2's parameter word after INIT (L1 section 7). -/
theorem test_init_parameter_word :
    hReg (nx (step (issued State.reset ⟨0x1000140D, []⟩))).h 0 = 0x6b08e673 := by decide +kernel
/-- Length-limit table, row 1: E_LENGTH_LIMIT, PLEN stays 60. -/
theorem test_add_length_limit :
    let t := nx (step (issued (nearLimit 60) ⟨0x20000004, [0, 0, 0, 0]⟩))
    t.outbox = [⟨.lengthLimit, 0x00502008, []⟩] ∧ t.plen = 60 := by decide +kernel
/-- Length-limit table, row 2: accepted, PLEN 63. -/
theorem test_add_at_limit :
    let t := nx (step (issued (nearLimit 60) ⟨0x20000003, [0, 0, 0]⟩))
    t.outbox = [⟨.ok, 0x00002008, []⟩] ∧ t.plen = 63 ∧ t.count = 0x1FFFFFFFFFFFFFC0 := by decide +kernel
/-- BLAKE holds a full block back: 64 zero bytes leave COUNT 0 and PLEN 64 (40_engine R122, program P2). -/
theorem test_add_holds_back :
    let t := nx (step (issued (fresh .blake2s) (addCopiesText 64 0)))
    t.count = 0 ∧ t.plen = 64 := by decide +kernel
/-- 65 zero bytes compress the first block with t = 64, last = 0 (L2 section 4). -/
theorem test_add_compresses :
    let t := nx (step (issued (fresh .blake2s) (addCopiesText 65 0)))
    t.count = 64 ∧ t.plen = 1 ∧ hReg t.h 0 = 0x76f2efc5 ∧ hReg t.h 7 = 0x74410f1a := by decide +kernel
/-- Length-limit table, row 5: FINISH sets FIN, COUNT = 2^61 - 1, PLEN = 0. -/
theorem test_finish_limit :
    let t := nx (step (issued (nearLimit 63) ⟨0x30000000, []⟩))
    t.outbox = [⟨.ok, 0x00012008, []⟩] ∧ t.count = 0x1FFFFFFFFFFFFFFF ∧ t.plen = 0 := by decide +kernel
/-- Fatal-state table, row 3. -/
theorem test_finish_fatal :
    (nx (step (issued fatalMd5 ⟨0x30000000, []⟩))).outbox = [⟨.fatalState, 0x00621001, []⟩] := by decide +kernel
/-- TOBIN of the empty message of MD5 (L1 section 1). -/
theorem test_tobin_md5_empty :
    (nx (step (issued (fresh .md5) ⟨0x40000000, []⟩))).outbox = [⟨.ok, 0x00011001,
      [0xd4, 0x1d, 0x8c, 0xd9, 0x8f, 0x00, 0xb2, 0x04, 0xe9, 0x80, 0x09, 0x98, 0xec, 0xf8, 0x42, 0x7e]⟩] := by
  decide +kernel
/-- TOHEX of the empty message of SHA-256 ends in "b855" (L1 section 1). -/
theorem test_tohex_sha256_empty :
    (nx (step (issued (fresh .sha256) ⟨0x50000000, []⟩))).outbox.map (fun r => r.data.drop 60) =
      [[0x62, 0x38, 0x35, 0x35]] := by decide +kernel
/-- An operand word no command has: E_ILLEGAL_CMD before the fatal check (fatal-state table, row 6). -/
theorem test_illegal_fatal :
    (nx (step (issued fatalMd5 ⟨0x60000000, []⟩))).outbox = [⟨.illegalCmd, 0x00121001, []⟩] := by decide +kernel
/-- A program text (30_encoding R96 to R98): `HEXDIGEST sha256, "abc"`. -/
theorem test_hexdigest_text :
    hexdigestText .sha256 [0x61, 0x62, 0x63] =
      [⟨0x10000008, []⟩, ⟨0x20000003, [0x61, 0x62, 0x63]⟩, ⟨0x50000000, []⟩] := by decide +kernel
/-- `ADDSPLIT 2, "abc"` (R97). -/
theorem test_addsplit_text :
    addsplitText 2 [0x61, 0x62, 0x63] = [⟨0x20000002, [0x61, 0x62]⟩, ⟨0x20000001, [0x63]⟩] := by decide +kernel

/-! ## The padding controller (95_test_vectors L2 section 3) -/

/-- MD_LE, n = 55: one block, last 20 bytes. -/
theorem test_pad_md_le :
    let tail := (nx (exec .padMdLe (padState .b64 55))).ports.tail
    tail.length = 64 ∧ tail.drop 44 = [0x61, 0x61, 0x61, 0x61, 0x61, 0x61, 0x61, 0x61, 0x61, 0x61, 0x61, 0x80,
      0xb8, 0x01, 0, 0, 0, 0, 0, 0] := by decide +kernel
/-- MD_BE, BS = 128, n = 112: two blocks, last 4 bytes. -/
theorem test_pad_md_be :
    let tail := (nx (exec .padMdBe (padState .b128 112))).ports.tail
    tail.length = 256 ∧ tail.drop 252 = [0, 0, 0x03, 0x80] ∧ tail[112]? = some 0x80 := by decide +kernel
/-- BLAKE, n = 63. -/
theorem test_pad_blake :
    let tail := (nx (exec .padBlake (padState .b64 63))).ports.tail
    tail.length = 64 ∧ tail.drop 62 = [0x61, 0x00] := by decide +kernel

/-! ## The compression units on the block of "abc" (95_test_vectors L2 section 4) -/

theorem test_md5_abc : ends 4 (nx (exec .md5Compress (unitState .md5 abcLe 0 false))) =
    (0x98500190, 0x727fe128) := by decide +kernel
theorem test_rmd128_abc : ends 4 (nx (exec .rmd128Compress (unitState .ripemd128 abcLe 0 false))) =
    (0x19124ac1, 0x774c1469) := by decide +kernel
theorem test_rmd160_abc : ends 5 (nx (exec .rmd160Compress (unitState .ripemd160 abcLe 0 false))) =
    (0xf708b28e, 0xfc0b5af1) := by decide +kernel
theorem test_rmd256_abc : ends 8 (nx (exec .rmd256Compress (unitState .ripemd256 abcLe 0 false))) =
    (0x226ebdaf, 0x659b4575) := by decide +kernel
theorem test_rmd320_abc : ends 10 (nx (exec .rmd320Compress (unitState .ripemd320 abcLe 0 false))) =
    (0xb3014cde, 0x2d68c4db) := by decide +kernel
theorem test_sha1_abc : ends 5 (nx (exec .sha1Compress (unitState .sha1 abcBe64 0 false))) =
    (0xa9993e36, 0x9cd0d89d) := by decide +kernel
theorem test_sha256_abc : ends 8 (nx (exec .sha256Compress (unitState .sha256 abcBe64 0 false))) =
    (0xba7816bf, 0xf20015ad) := by decide +kernel
theorem test_sha512_abc : ends 8 (nx (exec .sha512Compress (unitState .sha512 abcBe128 0 false))) =
    (0xddaf35a193617aba, 0x2a9ac94fa54ca49f) := by decide +kernel
theorem test_blake2s_abc : ends 8 (nx (exec .blake2sCompress (unitState .blake2s abcBlake 3 true))) =
    (0x8c5e8c50, 0x82596786) := by decide +kernel
/-- A block that is not the last: 128 zero bytes, t = 128, last = 0. -/
theorem test_blake2b_zero : ends 8 (nx (exec .blake2bCompress (unitState .blake2b (fun _ => 0) 128 false))) =
    (0x9064f7302f5ebcfd, 0x3d65414e362955cc) := by decide +kernel
theorem test_blake2b_abc : ends 8 (nx (exec .blake2bCompress (unitState .blake2b abcBlake 3 true))) =
    (0x0d4d1c983fa580ba, 0x239900d4ed8623b9) := by decide +kernel
/-- The two-halves arithmetic gives the same block as the native one (47_word64_alu R340). -/
theorem test_sha512_halves :
    hReg (sha512Unit false (Alg.sha512.initH 64) ((List.range 128).map abcBe128)) 7 = 0x2a9ac94fa54ca49f := by
  decide +kernel

/-! ## word64_alu (95_test_vectors L2 section 9) -/

/-- The result wire after a W64 operation. -/
def aluResult (i : Instr) (a b : Word64) : Word64 := (nx (exec i (aluState a b))).ports.r

theorem test_w64_not : aluResult .w64Not 0x8000000000000001 0 = 0x7ffffffffffffffe := by decide +kernel
theorem test_w64_and : aluResult .w64And 0xf0f0f0f00f0f0f0f 0xff00ff00ff00ff00 = 0xf000f0000f000f00 := by
  decide +kernel
theorem test_w64_or : aluResult .w64Or 0xf0f0f0f00f0f0f0f 0x0f0f0f0ff0f0f0f0 = 0xffffffffffffffff := by
  decide +kernel
theorem test_w64_xor : aluResult .w64Xor 0xdeadbeefcafebabe 0x0123456789abcdef = 0xdf8efb8843557751 := by
  decide +kernel
theorem test_w64_add_carry : aluResult .w64Add 0x00000001ffffffff 0x00000001ffffffff = 0x00000003fffffffe := by
  decide +kernel
theorem test_w64_rotr : aluResult (.w64Rotr 31) 0x0123456789abcdef 0 = 0x13579bde02468acf ∧
    aluResult (.w64Rotr 63) 0x0123456789abcdef 0 = 0x02468acf13579bde := by decide +kernel
theorem test_w64_shr : aluResult (.w64Shr 33) 0x0123456789abcdef 0 = 0x000000000091a2b3 ∧
    aluResult (.w64Shr 64) 0xffffffffffffffff 0 = 0 := by decide +kernel
/-- ROTR by 64 is reserved: FATAL and E_UNIT_RESERVED (47_word64_alu R349, 60_exceptions R377). -/
theorem test_w64_rotr_reserved :
    let t := nx (exec (.w64Rotr 64) (aluState 1 0))
    t.fatal = true ∧ t.lasterr = .unitReserved ∧ t.ports.r = 0 := by decide +kernel
theorem test_w64_shr_reserved : (nx (exec (.w64Shr 65) (aluState 1 0))).fatal = true := by decide +kernel

/-! ## Witnesses: a state and operands that meet the hypotheses of each statement -/

theorem nx_next (i : Instr) (hi : i.isHostCommand = true) (s : State) : exec i s = .next (nx (exec i s)) := by
  obtain ⟨t, h, -⟩ := exec_host_cases i hi s
  rw [h]; rfl

theorem nx_step (s : State) (i : Instr) (h : fetch s = .instr i) (hi : i.isHostCommand = true) :
    step s = .next (nx (step s)) := by
  have e : step s = exec i s := by unfold step; rw [h]
  rw [e]; exact nx_next i hi s

/-- A computation satisfies the invariant: right after INIT of MD5, with an ADD waiting. -/
def md5AddAbc : State := issued (fresh .md5) ⟨0x20000003, [0x61, 0x62, 0x63]⟩

theorem md5AddAbc_inv : Inv md5AddAbc := by
  refine ⟨rfl, fun _ => ?_⟩
  exact ⟨by decide, fun _ => rfl, by decide, fun h => absurd h (by decide), by decide, fun _ => by decide +kernel,
    by decide +kernel, fun h => absurd h (by decide), fun h => absurd h (by decide), fun _ => rfl⟩

theorem fresh_md5_absorbed : Absorbed .md5 16 [] md5AddAbc :=
  ⟨rfl, rfl, rfl, rfl, by decide, by decide, by decide, by decide +kernel, by decide +kernel⟩

/-- One byte of a message of MD5 absorbed. -/
def md5OneByte : State :=
  { fresh .md5 with pbuf := tab 128 (fun i => if i = 0 then 0x61 else 0), plen := 1, inbox := [⟨0x30000000, []⟩] }

theorem md5OneByte_absorbed : Absorbed .md5 16 [0x61] md5OneByte :=
  ⟨rfl, rfl, rfl, rfl, by decide, by decide, by decide, by decide +kernel, by decide +kernel⟩

theorem witness_EncodeOfDecode : decode (.command 0x1000140D) = .ok (.init 0x0D 20 0) ∧
    decode (.selector (.csel 9)) = .ok .blake2bCompress := by decide

theorem witness_CommandWordsFollowTheTable :
    (0x00000000#32 &&& 0xFFFFFFFF = 0x00000000) ∧ (0x1000FFFF#32 &&& 0xFFFF0000 = 0x10000000) ∧
    (0x20FFFFFF#32 &&& 0xFF000000 = 0x20000000) ∧ (0x30000000#32 &&& 0xFFFFFFFF = 0x30000000) ∧
    (0x40000000#32 &&& 0xFFFFFFFF = 0x40000000) ∧ (0x50000000#32 &&& 0xFFFFFFFF = 0x50000000) := by decide

theorem witness_IllegalCommandsAreRejected :
    (issued State.reset ⟨0x60000000, []⟩).sel = none ∧
    (issued State.reset ⟨0x60000000, []⟩).inbox = ⟨0x60000000, []⟩ :: [] ∧
    illegal 0x60000000 [] ∧ illegal 0x10010000 [] ∧ illegal 0x21000000 [] ∧ illegal 0x00000001 [] ∧
    illegal 0x30000000 [0] ∧ illegal 0x20000002 [0] ∧ ¬ illegal 0x20000001 [0] ∧ ¬ illegal 0x50000000 [] := by
  unfold illegal; dsimp only; refine ⟨?_, ?_, ?_, ?_, ?_, ?_, ?_, ?_, ?_, ?_⟩ <;> decide

theorem witness_ReservedSelectorsAreFatal :
    ({ State.reset with sel := some (.padsel 3) } : State).sel = some (.padsel 3) ∧
    0xA ≤ (0xA#4).toNat ∧ 0xA ≤ (0xF#4).toNat ∧
    reservedW64 (7#3).toNat (0#7).toNat ∧ reservedW64 (4#3).toNat (1#7).toNat ∧
    reservedW64 (5#3).toNat (64#7).toNat ∧ reservedW64 (6#3).toNat (65#7).toNat ∧
    ¬ reservedW64 (5#3).toNat (63#7).toNat ∧ ¬ reservedW64 (6#3).toNat (64#7).toNat := by
  unfold reservedW64; decide

theorem witness_StepRunsTheDecodedOperation :
    md5AddAbc.sel = none ∧ md5AddAbc.inbox = ⟨0x20000003, [0x61, 0x62, 0x63]⟩ :: [] ∧
    decodeCommand 0x20000003 = .ok (.add 3) ∧
    ({ md5AddAbc with sel := some (.csel 0) } : State).sel = some (.csel 0) ∧
    decodeSelector (.csel 0) = .ok .md5Compress := by decide +kernel

theorem witness_IdleKeepsEveryRegister : State.reset.sel = none ∧ State.reset.inbox = [] := by decide

theorem witness_OneResponsePerCommand :
    (issued State.reset statText).sel = none ∧ (issued State.reset statText).inbox = statText :: [] ∧
    (statText.cw = 0 ∧ statText.payload = []) ∧ ¬ (finishText.cw = 0 ∧ finishText.payload = []) := by decide

theorem witness_StepKeepsTheInvariants : Inv md5AddAbc ∧ step md5AddAbc = .next (nx (step md5AddAbc)) :=
  ⟨md5AddAbc_inv, nx_step _ (.add 3) (by decide) rfl⟩

theorem witness_NoStepFromTheInvariantsIsFatal :
    Inv md5AddAbc ∧ md5AddAbc.fatal = false ∧ step md5AddAbc = .next (nx (step md5AddAbc)) :=
  ⟨md5AddAbc_inv, rfl, nx_step _ (.add 3) (by decide) rfl⟩

theorem witness_OnlyInitSelectsAnAlgorithm : exec .finish (fresh .md5) = .next (nx (exec .finish (fresh .md5))) :=
  nx_next _ rfl _

theorem witness_FinishedStateIsFrozen :
    Instr.tobin.isHostCommand = true ∧ finishedSha256.fin = true ∧
    exec .tobin finishedSha256 = .next (nx (exec .tobin finishedSha256)) := ⟨rfl, rfl, nx_next _ rfl _⟩

/-- FIN goes from 0 to 1 by FINISH, and from 1 to 0 by INIT. -/
theorem witness_OnlyFinishingSetsFin :
    (fresh .md5).fin = false ∧ (nx (exec .finish (fresh .md5))).fin = true ∧
    exec .finish (fresh .md5) = .next (nx (exec .finish (fresh .md5))) ∧
    finishedSha256.fin = true ∧ (nx (exec (.init 0x01 0 0) finishedSha256)).fin = false ∧
    exec (.init 0x01 0 0) finishedSha256 = .next (nx (exec (.init 0x01 0 0) finishedSha256)) :=
  ⟨rfl, by decide +kernel, nx_next _ rfl _, rfl, by decide +kernel, nx_next _ rfl _⟩

theorem witness_OnlyInitAndFinishingWriteTheDigest :
    Instr.stat.isHostCommand = true ∧ exec .stat State.reset = .next (nx (exec .stat State.reset)) :=
  ⟨rfl, nx_next _ rfl _⟩

/-- Every clause: ADD of no byte, FINISH, STAT, an INIT that succeeds, one that fails, in a fatal state. -/
theorem witness_FatalStateLastsUntilInit :
    fatalMd5.fatal = true ∧ fatalMd5.payload = [] ∧ fatalMd5.payload.length = (0#24).toNat ∧
    exec (.add 0) fatalMd5 = .next (nx (exec (.add 0) fatalMd5)) ∧
    exec .finish fatalMd5 = .next (nx (exec .finish fatalMd5)) ∧
    exec .stat fatalMd5 = .next (nx (exec .stat fatalMd5)) ∧
    exec (.init 0x01 0 0) fatalMd5 = .next (nx (exec (.init 0x01 0 0) fatalMd5)) ∧
    (nx (exec (.init 0x01 0 0) fatalMd5)).lasterr = .ok ∧
    exec (.init 0x0F 0 0) fatalMd5 = .next (nx (exec (.init 0x0F 0 0) fatalMd5)) ∧
    (nx (exec (.init 0x0F 0 0) fatalMd5)).lasterr ≠ .ok :=
  ⟨rfl, rfl, rfl, nx_next _ rfl _, nx_next _ rfl _, nx_next _ rfl _, nx_next _ rfl _, rfl, nx_next _ rfl _,
    by decide +kernel⟩

/-- FINISH with no algorithm: rejected with E_NO_ALG. -/
theorem witness_RejectionChangesOnlyLastErr :
    (issued State.reset finishText).sel = none ∧
    step (issued State.reset finishText) = .next (nx (step (issued State.reset finishText))) ∧
    (nx (step (issued State.reset finishText))).outbox =
      (issued State.reset finishText).outbox ++ [⟨.noAlg, 0x00300000, []⟩] ∧
    ResultCode.noAlg ∈
      [ResultCode.illegalCmd, .unknownAlg, .noAlg, .finalized, .lengthLimit, .fatalState] :=
  ⟨rfl, nx_step _ .finish (by decide) rfl, by decide +kernel, by decide⟩

/-- Every clause of the check order for ADD is reached, with the length limit at its boundary. -/
theorem witness_AddChecksInOrder :
    State.reset.payload.length ≠ (1#24).toNat ∧
    (fatalMd5.payload.length = (0#24).toNat ∧ fatalMd5.fatal = true) ∧
    (State.reset.payload.length = (0#24).toNat ∧ State.reset.fatal = false ∧ State.reset.alg = none) ∧
    (finishedSha256.payload.length = (0#24).toNat ∧ finishedSha256.alg ≠ none ∧ finishedSha256.fin = true) ∧
    ((issued (nearLimit 60) (addText [0, 0, 0, 0])).payload.length = (4#24).toNat ∧
      (nearLimit 60).count.toNat + (nearLimit 60).plen.toNat + (4#24).toNat = 2 ^ 61 - 1 + 1) ∧
    ((issued (nearLimit 60) (addText [0, 0, 0])).payload.length = (3#24).toNat ∧
      (nearLimit 60).count.toNat + (nearLimit 60).plen.toNat + (3#24).toNat = 2 ^ 61 - 1) := by decide +kernel

/-- Every clause of the check order of the finishing commands is reached, with PLEN at BS for BLAKE. -/
theorem witness_FinishingChecksInOrder :
    (Instr.finish = .finish ∨ Instr.finish = .tobin ∨ Instr.finish = .tohex) ∧
    (issued State.reset ⟨0x30000000, [0]⟩).payload ≠ [] ∧
    (fatalMd5.payload = [] ∧ fatalMd5.fatal = true) ∧
    (State.reset.payload = [] ∧ State.reset.fatal = false ∧ State.reset.alg = none) ∧
    (({ fresh .blake2s with plen := 64 } : State).payload = [] ∧
      ({ fresh .blake2s with plen := 64 } : State).plen.toNat ≤ Alg.blake2s.desc.bs.bytes) := by decide +kernel

/-- Both ends of the range of PLEN. -/
theorem witness_MalformedTailIsFatal :
    (Instr.tohex = .finish ∨ Instr.tohex = .tobin ∨ Instr.tohex = .tohex) ∧
    (fresh .blake2s).payload = [] ∧ (fresh .blake2s).fatal = false ∧ (fresh .blake2s).fin = false ∧
    (fresh .blake2s).alg = some .blake2s ∧ Alg.blake2s.desc.scheme = .blake ∧
    (∀ p ∈ [65#8, 127#8], Alg.blake2s.desc.bs.bytes < p.toNat ∧ p.toNat < 128) := by decide +kernel

theorem witness_InitLoadsEveryRegister :
    Alg.blake2b.nnLegal 64 = true ∧ Alg.md5.nnLegal 0 = true ∧ State.reset.payload = [] := by decide

/-- Each clause at a boundary value: ALGID 0x00, 0x0F, a fixed length missed, and one more than BLAKE2's largest. -/
theorem witness_InitRejectsUnknownRequests :
    State.reset.payload = [] ∧ (0x00#8).toNat = 0 ∧ 0x0F ≤ (0x0F#8).toNat ∧
    (1 ≤ (0x0C#8).toNat ∧ (0x0C#8).toNat ≤ 0x0C ∧ (33#7) ≠ 0 ∧
      (33#7).toNat ≠ [0, 16, 16, 20, 32, 40, 20, 28, 32, 48, 64, 28, 32].getD (0x0C#8).toNat 0) ∧
    ((0x0D#8).toNat = 0x0D ∧ 32 < (33#7).toNat) ∧ ((0x0E#8).toNat = 0x0E ∧ 64 < (65#7).toNat) := by decide

theorem witness_InitForgetsTheOldComputation :
    exec (.init 0x01 0 0) fatalMd5 = .next (nx (exec (.init 0x01 0 0) fatalMd5)) ∧
    exec (.init 0x01 0 0) finishedSha256 = .next (nx (exec (.init 0x01 0 0) finishedSha256)) ∧
    (nx (exec (.init 0x01 0 0) fatalMd5)).lasterr = .ok ∧
    (nx (exec (.init 0x01 0 0) finishedSha256)).lasterr = .ok :=
  ⟨nx_next _ rfl _, nx_next _ rfl _, by decide +kernel, by decide +kernel⟩

theorem witness_StatReadsTheStatusWord : State.reset.payload = [] := by decide

theorem witness_InitAbsorbsTheEmptyMessage :
    Alg.blake2s.nnLegal 20 = true ∧ fatalMd5.payload = [] := by decide

theorem witness_AddAppendsItsPayload :
    Absorbed .md5 16 [] md5AddAbc ∧ md5AddAbc.payload.length = (3#24).toNat ∧
    ([] : List Byte).length + (3#24).toNat ≤ Config.maxMsgBytes := ⟨fresh_md5_absorbed, by decide, by decide⟩

theorem witness_AddFrame : exec (.add 3) md5AddAbc = .next (nx (exec (.add 3) md5AddAbc)) := nx_next _ rfl _

theorem witness_EmptyAddChangesOnlyLastErr :
    (nearLimit 63).payload = [] ∧ (nearLimit 63).fatal = false ∧ (nearLimit 63).alg ≠ none ∧
    (nearLimit 63).fin = false ∧ (nearLimit 63).msgLen ≤ Config.maxMsgBytes := by decide +kernel

theorem witness_AddCountsItsBytes :
    Inv md5AddAbc ∧ md5AddAbc.alg = some .md5 ∧ exec (.add 3) md5AddAbc = .next (nx (exec (.add 3) md5AddAbc)) ∧
    (nx (exec (.add 3) md5AddAbc)).lasterr = .ok ∧ md5AddAbc.fatal = false :=
  ⟨md5AddAbc_inv, rfl, nx_next _ rfl _, by decide +kernel, rfl⟩

/-- "a" and then "bc" (L1 section 3). -/
theorem witness_ChunkingInvariance :
    let s := md5AddAbc
    let u := nx (exec (.add 1) { s with inbox := ⟨0, [0x61]⟩ :: [] })
    let v := nx (exec (.add 2) { u with inbox := ⟨0, [0x62, 0x63]⟩ :: [] })
    Inv s ∧ [0x61#8].length = (1#24).toNat ∧ [0x62#8, 0x63#8].length = (2#24).toNat ∧
    (3#24).toNat = (1#24).toNat + (2#24).toNat ∧
    exec (.add 1) { s with inbox := ⟨0, [0x61]⟩ :: [] } = .next u ∧ u.lasterr = .ok ∧
    exec (.add 2) { u with inbox := ⟨0, [0x62, 0x63]⟩ :: [] } = .next v ∧ v.lasterr = .ok :=
  ⟨md5AddAbc_inv, rfl, rfl, rfl, nx_next _ rfl _, by decide +kernel, nx_next _ rfl _, by decide +kernel⟩

theorem witness_FinishComputesTheDigest :
    Absorbed .md5 16 [0x61] md5OneByte ∧ md5OneByte.payload = [] ∧ Alg.md5.nnLegal 16 = true :=
  ⟨md5OneByte_absorbed, by decide, by decide⟩

theorem witness_TobinAndTohexReturnTheDigest :
    Absorbed .md5 16 [0x61] md5OneByte ∧ md5OneByte.payload = [] ∧ Alg.md5.nnLegal 16 = true ∧
    exec .finish md5OneByte = .next (nx (exec .finish md5OneByte)) :=
  ⟨md5OneByte_absorbed, by decide, by decide, nx_next _ rfl _⟩

theorem witness_FinishingIsIdempotent :
    finishedSha256.fin = true ∧ finishedSha256.fatal = false ∧ finishedSha256.alg ≠ none ∧
    finishedSha256.payload = [] := by decide

theorem witness_HexTextFormat : 1 < [0x00#8, 0xAF#8].length ∧ [0x00#8, 0xAF#8][1]? = some 0xAF := by decide

theorem witness_FinishingFrame :
    (Instr.tobin = .finish ∨ Instr.tobin = .tobin ∨ Instr.tobin = .tohex) ∧
    exec .tobin md5OneByte = .next (nx (exec .tobin md5OneByte)) := ⟨by decide, nx_next _ rfl _⟩

/-- The ADD state with an unused PBUF byte, an unused H word and an unused DIG byte changed. -/
def md5AddAbcHidden : State :=
  { md5AddAbc with
    pbuf := tab 128 fun i => if i = 127 then 0xFF else 0
    h := tab 10 fun i => if i = 9 then 1 else hReg md5AddAbc.h i
    dig := tab 64 fun i => if i = 63 then 1 else 0 }

theorem witness_HiddenBytesAreUnobservable :
    md5AddAbc ≠ md5AddAbcHidden ∧ SameObservable md5AddAbc md5AddAbcHidden ∧ md5AddAbc.sel = none ∧
    step md5AddAbc = .next (nx (step md5AddAbc)) := by
  refine ⟨by decide +kernel, ⟨rfl, rfl, rfl, ?_, rfl, by decide +kernel, rfl, rfl, by decide +kernel, rfl, rfl, rfl,
    rfl, rfl, rfl, rfl⟩, rfl, nx_step _ (.add 3) (by decide) rfl⟩
  intro a ha
  obtain rfl : Alg.md5 = a := Option.some.inj ha
  decide +kernel

/-- An INIT with VAR = 0 against one with VAR = 1. -/
theorem witness_VariantIsInvisible :
    (issued State.reset ⟨0x10000001, []⟩).forgetVar = (issued State.reset ⟨0x10008001, []⟩).forgetVar ∧
    (issued State.reset ⟨0x10000001, []⟩).sel = none ∧
    step (issued State.reset ⟨0x10000001, []⟩) = .next (nx (step (issued State.reset ⟨0x10000001, []⟩))) ∧
    step (issued State.reset ⟨0x10008001, []⟩) = .next (nx (step (issued State.reset ⟨0x10008001, []⟩))) :=
  ⟨by decide +kernel, rfl, nx_step _ (.init 0x01 0 0) (by decide) rfl, nx_step _ (.init 0x01 0 1) (by decide) rfl⟩

/-- Each clause at both ends of its range of pending lengths. -/
theorem witness_TailBlockCounts :
    (List.replicate 55 (0 : Byte)).length ≤ BlockSize.b64.bytes - 9 ∧
    (∀ n ∈ [56, 63], BlockSize.b64.bytes - 9 < (List.replicate n (0 : Byte)).length ∧
      (List.replicate n (0 : Byte)).length < BlockSize.b64.bytes) ∧
    (List.replicate 111 (0 : Byte)).length ≤ BlockSize.b128.bytes - 1 - BlockSize.b128.bytes / 8 ∧
    (∀ n ∈ [112, 127], BlockSize.b128.bytes - 1 - BlockSize.b128.bytes / 8 < (List.replicate n (0 : Byte)).length ∧
      (List.replicate n (0 : Byte)).length < BlockSize.b128.bytes) ∧
    (List.replicate 128 (0 : Byte)).length ≤ BlockSize.b128.bytes := by decide +kernel

theorem witness_LengthFieldIsExact : 2 ^ 61 - 1 ≤ Config.maxMsgBytes := by decide

theorem witness_W64RotateAndShift : (63#7).toNat ≤ 63 ∧ (64#7).toNat ≤ 64 := by decide

end Sys2Proof.Tests
end

namespace Sys2Proof.Machine

/-! # The invariant of the machine (10_state R35)

What keeps `Inv` is said once per operation: a change of LASTERR, INIT, ADD's loop, FINISH's body. The step lemma
collects these, and COUNT after an ADD follows from what the loop keeps. -/

/-! ## Registers that stay the same but for LASTERR -/

/-- Every register other than LASTERR of `t` is as in `s` (10_state R27, 60_exceptions R372). -/
def SameButLastErr (s t : State) : Prop := { t.regs with lasterr := s.lasterr } = s.regs

theorem respond_sameButLastErr (code : ResultCode) (data : List Byte) (s : State) :
    SameButLastErr s (respond code data s) := rfl

theorem reject_sameButLastErr (code : ResultCode) (s : State) : SameButLastErr s (reject code s) := rfl

theorem accept_sameButLastErr (data : List Byte) (s : State) : SameButLastErr s (accept data s) := rfl

/-- The invariant does not look at LASTERR, nor at the channels. -/
theorem Inv.of_sameButLastErr {s t : State} (inv : Inv s) (sel : t.sel = none)
    (same : SameButLastErr s t) : Inv t := by
  refine ⟨sel, fun fatal => ?_⟩
  have inv := inv.2
  cases s
  obtain ⟨alg⟩ := t
  simp only [SameButLastErr, State.regs, Regs.mk.injEq] at same
  obtain ⟨rfl, rfl, rfl, rfl, rfl, rfl, rfl, rfl, rfl, rfl, -⟩ := same
  cases alg with
  | none =>
    have p : PowerOnRegs _ := inv fatal
    exact PowerOnRegs.mk p.nn p.variant p.h p.count p.pbuf p.plen p.fin p.dig
  | some a =>
    have m : MessageInv a _ := inv fatal
    exact MessageInv.mk m.nnLegal m.countMultiple m.plenBound m.heldBack m.lengthBound m.hNarrow
      m.hUnused m.finished m.digest m.digClear

/-- Once an algorithm is selected, the invariant of its computation is the invariant of the machine. -/
theorem MessageInv.inv {a : Alg} {s : State} (inv : MessageInv a s) (sel : s.sel = none)
    (alg : s.alg = some a) : Inv s :=
  ⟨sel, fun _ => by rw [alg]; exact inv⟩

theorem Inv.messageInv {a : Alg} {s : State} (inv : Inv s) (fatal : s.fatal = false)
    (alg : s.alg = some a) : MessageInv a s := by
  simpa [alg] using inv.2 fatal

theorem MessageInv.hInv {a : Alg} {s : State} (inv : MessageInv a s) : HInv a s.h :=
  ⟨inv.hNarrow, inv.hUnused⟩

/-! ## INIT -/

/-- The digest length INIT loads is legal, and never 0 (30_encoding R85, 10_state R22). -/
theorem digestLen_legal {a : Alg} {nnreq : BitVec 7} (legal : a.nnLegal nnreq = true) :
    a.digestLen nnreq ≠ 0 ∧ a.nnLegal (a.digestLen nnreq) = true := by
  by_cases h : nnreq = 0
  · simp only [Alg.digestLen, h, if_true]
    cases a <;> decide
  · rw [Alg.digestLen, if_neg h]
    exact ⟨h, legal⟩

/-- A zero-extended word of at most 32 bits has an upper half of 0 (10_state R24). -/
theorem setWidth_upperHalf {w : Nat} (hw : w ≤ 32) (x : BitVec w) :
    (x.setWidth 64).extractLsb' 32 32 = 0 := by
  ext j hj
  simp [BitVec.getLsbD_of_ge x (32 + j) (by omega)]

/-- The IV of a 32-bit algorithm is a table of 32-bit words (10_state R36). -/
theorem iv_narrow {a : Alg} (hw : a.desc.width = .w32) : ∃ words, a.desc.iv = zext64 words := by
  cases a with
  | sha384 | sha512 | sha512t224 | sha512t256 | blake2b => cases hw
  | _ => exact ⟨_, rfl⟩

theorem zext64_getD (l : List Word32) (i : Nat) : (zext64 l).getD i 0 = (l.getD i 0).setWidth 64 := by
  simp only [zext64, List.getD_eq_getElem?_getD, List.getElem?_map]
  cases l[i]? <;> rfl

theorem sw_pos (a : Alg) : 0 < a.desc.sw := by cases a <;> decide

/-- The IV, with BLAKE2's parameter word, keeps to the algorithm's width and registers (40_engine R120). -/
theorem initH_hInv (a : Alg) (nn : BitVec 7) : HInv a (a.initH nn) := by
  refine ⟨fun hw i hi => ?_, fun i hi hs => ?_⟩
  · obtain ⟨words, hiv⟩ := iv_narrow hw
    have word : (if i < a.desc.sw then a.desc.iv.getD i 0 else (0 : Word64)).extractLsb' 32 32 = 0 := by
      rw [hiv, zext64_getD]
      split
      · exact setWidth_upperHalf le_rfl _
      · rfl
    have parameter : (nn.setWidth 64).extractLsb' 32 32 = 0 := setWidth_upperHalf (by decide) nn
    simp only [Alg.initH, hReg_tab, hi, if_true]
    split
    · rw [BitVec.extractLsb'_xor, BitVec.extractLsb'_xor, word, parameter]
      rfl
    · exact word
  · have hne : i ≠ 0 := by have := sw_pos a; omega
    simp [Alg.initH, hi, Nat.not_lt.mpr hs, hne]

theorem initRegs_messageInv {a : Alg} {nnreq : BitVec 7} (var : BitVec 1) (s : State)
    (legal : a.nnLegal nnreq = true) : MessageInv a (initRegs a (a.digestLen nnreq) var s) where
  nnLegal := digestLen_legal legal
  countMultiple _ := rfl
  plenBound := by
    have pos := a.desc.bs.bytes_pos
    simp only [initRegs_plen]
    split <;> simp [pos]
  heldBack _ _ _ := rfl
  lengthBound := by simp [State.msgLen]
  hNarrow := (initH_hInv a _).1
  hUnused := (initH_hInv a _).2
  finished h := by cases h
  digest h := by cases h
  digClear _ := rfl

/-! ## ADD -/

/-- The part of the invariant that ADD's loop works on: COUNT, PLEN and H of a message that is not finished
(10_state R35.1, R35.2 and R35.4, with BLAKE's held-back block). -/
structure StreamInv (a : Alg) (s : State) : Prop where
  countMultiple : s.count.toNat % a.desc.bs.bytes = 0
  plenBound : if a.desc.scheme = .blake then s.plen.toNat ≤ a.desc.bs.bytes else s.plen.toNat < a.desc.bs.bytes
  heldBack : a.desc.scheme = .blake → s.plen = 0 → s.count = 0
  h : HInv a s.h

theorem MessageInv.stream {a : Alg} {s : State} (inv : MessageInv a s) (fin : s.fin = false) :
    StreamInv a s :=
  ⟨inv.countMultiple fin, inv.plenBound, fun hs => inv.heldBack hs fin, inv.hInv⟩

/-- ADD keeps the invariant if its loop does, since it writes no other register (40_engine R122). -/
theorem StreamInv.messageInv {a : Alg} {s t : State} (stream : StreamInv a t) (inv : MessageInv a s)
    (fin : s.fin = false) (frame : SameButStream s t) (limit : t.msgLen ≤ Config.maxMsgBytes) :
    MessageInv a t where
  nnLegal := by rw [frame.nn]; exact inv.nnLegal
  countMultiple _ := stream.countMultiple
  plenBound := stream.plenBound
  heldBack hs _ := stream.heldBack hs
  lengthBound := limit
  hNarrow := stream.h.1
  hUnused := stream.h.2
  finished h := by simp [frame.fin, fin] at h
  digest h := by simp [frame.fin, fin] at h
  digClear _ := by rw [frame.dig]; exact inv.digClear fin

theorem appendByte_msgLen {b : Byte} {s : State} (h : s.plen.toNat < 255) :
    (appendByte b s).msgLen = s.msgLen + 1 := by
  simp only [State.msgLen, appendByte_count, appendByte_plen_toNat h]
  rfl

theorem appendByte_plen_ne_zero {b : Byte} {s : State} (h : s.plen.toNat < 255) :
    (appendByte b s).plen ≠ 0 := by
  intro h0
  have plen := appendByte_plen_toNat (b := b) h
  rw [h0] at plen
  exact Nat.succ_ne_zero _ plen.symm

/-- Compressing the full block moves its bytes from PLEN to COUNT (40_engine R122). -/
theorem flushBlock_stream {a : Alg} {s t : State} (full : blockFull a s = true)
    (limit : s.msgLen ≤ Config.maxMsgBytes) (multiple : s.count.toNat % a.desc.bs.bytes = 0)
    (h : HInv a s.h) (e : flushBlock a s = .ok t) :
    t.plen = 0 ∧ t.msgLen = s.msgLen ∧ t.count.toNat % a.desc.bs.bytes = 0 ∧ HInv a t.h := by
  have hmax : Config.maxMsgBytes = 2305843009213693951 := by decide
  have hp : s.plen.toNat = a.desc.bs.bytes := by simpa [blockFull] using full
  have hl : s.msgLen = s.count.toNat + a.desc.bs.bytes := by rw [State.msgLen, hp]
  obtain ⟨t', et, plen, -, count, hh⟩ := flushBlock_full hp (by omega)
  obtain rfl := Except.ok.inj (et.symm.trans e)
  refine ⟨plen, by simp [State.msgLen, plen, count, hp], by rw [count, Nat.add_mod_right, multiple], ?_⟩
  rw [hh]
  exact compressBlock_hInv (compressBlock_eq_compress _ _ _ _ _) h

/-- One byte of ADD's loop keeps the stream's invariant and counts the byte. -/
theorem absorbByte_stream {a : Alg} {s t : State} {b : Byte} (inv : StreamInv a s)
    (limit : s.msgLen + 1 ≤ Config.maxMsgBytes) (e : absorbByte a s b = .ok t) :
    StreamInv a t ∧ t.msgLen = s.msgLen + 1 := by
  have hbs := a.desc.bs.bytes_cases
  have bound := inv.plenBound
  have appended := appendByte_msgLen (b := b) (s := s)
  have plen := appendByte_plen_toNat (b := b) (s := s)
  rcases absorbByte_cases a s b with ⟨hs, full, u, eu, e'⟩ | ⟨hs, full, e'⟩ | ⟨hs, full, u, eu, e'⟩ |
    ⟨hs, full, e'⟩
  all_goals obtain rfl := Except.ok.inj (e'.symm.trans e)
  · -- BLAKE: the held-back block is compressed first
    obtain ⟨up, ul, uc, uh⟩ := flushBlock_stream full (by omega) inv.countMultiple inv.h eu
    have one := appendByte_plen_toNat (b := b) (s := u) (by simp [up])
    rw [up] at one
    refine ⟨⟨uc, ?_, fun _ h => absurd h (appendByte_plen_ne_zero (by simp [up])), uh⟩,
      by rw [appendByte_msgLen (by simp [up]), ul]⟩
    rw [if_pos hs, one]; exact a.desc.bs.bytes_pos
  · -- BLAKE: the byte is appended
    have room : s.plen.toNat ≠ a.desc.bs.bytes := by simpa [blockFull] using full
    rw [if_pos hs] at bound
    specialize plen (by omega)
    refine ⟨⟨inv.countMultiple, ?_, fun _ h => absurd h (appendByte_plen_ne_zero (by omega)), inv.h⟩,
      appended (by omega)⟩
    rw [if_pos hs]; omega
  · -- the others: the block is full with this byte
    rw [if_neg hs] at bound
    specialize appended (by omega)
    obtain ⟨up, ul, uc, uh⟩ := flushBlock_stream full (by omega) inv.countMultiple inv.h eu
    refine ⟨⟨uc, ?_, fun h => absurd h hs, uh⟩, ul.trans appended⟩
    rw [if_neg hs, up]; exact a.desc.bs.bytes_pos
  · -- the others: it is not
    have room : (appendByte b s).plen.toNat ≠ a.desc.bs.bytes := by simpa [blockFull] using full
    rw [if_neg hs] at bound
    specialize plen (by omega)
    refine ⟨⟨inv.countMultiple, ?_, fun h => absurd h hs, inv.h⟩, appended (by omega)⟩
    rw [if_neg hs]; omega

/-- ADD's loop keeps the stream's invariant and counts its bytes (40_engine R122). -/
theorem absorb_stream {a : Alg} {p : List Byte} {s t : State} (inv : StreamInv a s)
    (limit : s.msgLen + p.length ≤ Config.maxMsgBytes) (e : absorb a p s = .ok t) :
    StreamInv a t ∧ t.msgLen = s.msgLen + p.length := by
  induction p generalizing s with
  | nil =>
    obtain rfl : s = t := Except.ok.inj e
    exact ⟨inv, rfl⟩
  | cons b p ih =>
    rw [List.length_cons] at limit ⊢
    obtain ⟨u, eu, -⟩ := absorbByte_ok a s b
    obtain ⟨uinv, ul⟩ := absorbByte_stream inv (by omega) eu
    rw [absorb, eu] at e
    obtain ⟨tinv, tl⟩ := ih uinv (by omega) e
    exact ⟨tinv, by omega⟩

/-! ## FINISH, TOBIN and TOHEX -/

/-- The sealed message satisfies the invariant (40_engine R124, 10_state R35.5). -/
theorem sealMessage_messageInv {a : Alg} {s : State} {h : HRegs} (inv : MessageInv a s) (hinv : HInv a h) :
    MessageInv a (sealMessage a s.msgLen h s) where
  nnLegal := inv.nnLegal
  countMultiple h := by cases h
  plenBound := by
    have pos := a.desc.bs.bytes_pos
    simp only [sealMessage_plen]
    split <;> simp [pos]
  heldBack _ h := by cases h
  lengthBound := (Nat.mod_le _ _).trans inv.lengthBound
  hNarrow := hinv.1
  hUnused := hinv.2
  finished _ := rfl
  digest _ := writeDigest_digest (s := { s with h := h }) inv.nnLegal.2
  digClear h := by cases h

theorem finishBody_messageInv {a : Alg} {s t : State} (inv : MessageInv a s) (e : finishBody a s = .ok t) :
    MessageInv a t := by
  rcases finishBody_cases a s with ⟨-, e'⟩ | ⟨-, -, -, h, tail, e'⟩ | ⟨-, -, -, -, e'⟩
  · obtain rfl := Except.ok.inj (e'.symm.trans e)
    exact inv
  · obtain rfl := Except.ok.inj (e'.symm.trans e)
    exact sealMessage_messageInv inv (compressTail_hInv tail inv.hInv)
  · cases e'.symm.trans e

/-! ## Every step -/

/-- Every host command keeps the invariant. -/
theorem HostCase.inv {i : Instr} {s t : State} (c : HostCase i s t) (inv : Inv s) : Inv t := by
  have sel := inv.1
  cases c with
  | rejected c => exact inv.of_sameButLastErr sel (reject_sameButLastErr c s)
  | read => exact inv.of_sameButLastErr sel (respond_sameButLastErr _ _ s)
  | started _ nnreq var a _ _ alg =>
    have m := initRegs_messageInv var s (requestedAlg_some.mp alg).2
    exact (m.inv sel rfl).of_sameButLastErr sel (accept_sameButLastErr _ _)
  | added n a u _ payload fatal alg fin limit loop frame =>
    have m := inv.messageInv fatal alg
    obtain ⟨stream, len⟩ := absorb_stream (m.stream fin) (by omega) loop
    have usel := frame.sel.trans sel
    exact ((stream.messageInv m fin frame (by omega)).inv usel (frame.alg.trans alg)).of_sameButLastErr
      usel (accept_sameButLastErr _ u)
  | finished a u data _ _ fatal alg body =>
    obtain ⟨ualg, -, -, -, -, -, -, -, usel, -, -⟩ := finishBody_frame body
    have m := finishBody_messageInv (inv.messageInv fatal alg) body
    exact (m.inv (usel.trans sel) (ualg.trans alg)).of_sameButLastErr (usel.trans sel) (accept_sameButLastErr data u)
  | malformed => exact ⟨sel, fun h => by cases h⟩

/-- Settles O13: no selector is waiting, so a step is idle, or rejects a command word, or is a host command. -/
theorem stepKeepsTheInvariants : Obligations.StepKeepsTheInvariants := by
  intro s t inv h
  rcases step_cases s with ⟨-, -, e⟩ | ⟨_, _, _, -, -, -, e⟩ | ⟨_, _, i, -, -, -, hi, e⟩ |
    ⟨v, _, hv, -, -⟩ | ⟨v, _, hv, -, -, -⟩
  · obtain rfl := Host.Outcome.next.inj (e.symm.trans h)
    exact inv
  · obtain rfl := Host.Outcome.next.inj (e.symm.trans h)
    exact inv.of_sameButLastErr inv.1 (reject_sameButLastErr _ s)
  · exact (HostCase.of_exec hi (e.symm.trans h)).inv inv
  · cases hv.symm.trans inv.1
  · cases hv.symm.trans inv.1

/-- Settles O12: the registers hold their power-on values by definition. -/
theorem resetSatisfiesTheInvariants : Obligations.ResetSatisfiesTheInvariants :=
  ⟨⟨rfl, fun _ => PowerOnRegs.mk rfl rfl rfl rfl rfl rfl rfl rfl⟩, rfl⟩

/-! ## COUNT and PLEN after an ADD -/

/-- COUNT is the whole blocks of the message so far, but for the block BLAKE holds back (10_state R25, R26). -/
theorem StreamInv.count_eq {a : Alg} {s : State} (inv : StreamInv a s) :
    s.count.toNat = a.blocksAbsorbed s.msgLen * a.desc.bs.bytes := by
  have multiple := inv.countMultiple
  have bound := inv.plenBound
  have hbs := a.desc.bs.bytes_cases
  unfold Alg.blocksAbsorbed State.msgLen
  generalize a.desc.bs.bytes = bs at multiple bound hbs ⊢
  by_cases hs : a.desc.scheme = .blake
  · have held : s.plen.toNat = 0 → s.count.toNat = 0 := fun h => by
      rw [inv.heldBack hs (BitVec.eq_of_toNat_eq h)]; rfl
    rw [if_pos hs] at bound ⊢
    rcases hbs with rfl | rfl <;> omega
  · rw [if_neg hs] at bound ⊢
    rcases hbs with rfl | rfl <;> omega

/-- The two BLAKE2 algorithms are those of the BLAKE scheme (10_state R36). -/
theorem scheme_blake_iff (a : Alg) : a.desc.scheme = .blake ↔ a = .blake2s ∨ a = .blake2b := by
  cases a <;> decide

/-- Settles O33: the loop keeps the stream's invariant, and that fixes COUNT from the message length. -/
theorem addCountsItsBytes : Obligations.AddCountsItsBytes := by
  intro a n s t inv alg h ok fatal
  cases HostCase.of_exec rfl h with
  | added _ b u instr payload _ alg' fin limit loop frame =>
    obtain rfl := Instr.add.inj instr
    obtain rfl : a = b := Option.some.inj (alg.symm.trans alg')
    obtain ⟨stream, len⟩ := absorb_stream ((inv.messageInv fatal alg).stream fin) (by omega) loop
    rw [payload] at len
    have count := stream.count_eq
    rw [len] at count
    simp only [← scheme_blake_iff]
    refine ⟨len, count.trans ?_⟩
    unfold Alg.blocksAbsorbed State.msgLen
    split <;> rfl
  | rejected c code =>
    obtain rfl : c = .ok := ok
    simp at code
  | read instr | started _ _ _ _ instr => cases instr
  | finished _ _ _ instr | malformed _ instr => simp at instr

end Sys2Proof.Machine


namespace Sys2Proof.Machine

/-! # Which operations write which register, and the status word (10_state R21 to R33)

## What an operation writes (10_state R21 to R23, R27, R28) -/

/-- An internal operation writes none of ALG, NN, VARIANT and FIN (10_state R21 to R23, R27). -/
theorem exec_internal_frame {i : Instr} {s t : State} (hi : i.isHostCommand = false)
    (h : exec i s = .next t) :
    t.alg = s.alg ∧ t.nn = s.nn ∧ t.variant = s.variant ∧ t.fin = s.fin := by
  rcases exec_internal_cases i hi s with e | ⟨_, _, e⟩
  · obtain rfl := Host.Outcome.next.inj (e.symm.trans h)
    simp [unitReservedAlone]
  · obtain rfl := Host.Outcome.next.inj (e.symm.trans h)
    exact ⟨rfl, rfl, rfl, rfl⟩

/-- Settles O15: an internal operation keeps them, and of the host commands INIT alone loads them. -/
theorem onlyInitSelectsAnAlgorithm : Obligations.OnlyInitSelectsAnAlgorithm := by
  intro i s t h
  cases hi : i.isHostCommand with
  | false =>
    obtain ⟨alg, nn, variant, -⟩ := exec_internal_frame hi h
    exact .inr ⟨alg, nn, variant⟩
  | true =>
    cases HostCase.of_exec hi h with
    | rejected | read => exact .inr ⟨rfl, rfl, rfl⟩
    | started algid nnreq var _ instr => exact .inl ⟨algid, nnreq, var, instr⟩
    | added _ _ _ _ _ _ _ _ _ _ frame => exact .inr ⟨frame.alg, frame.nn, frame.variant⟩
    | finished _ _ _ _ _ _ _ body =>
      obtain ⟨alg, nn, variant, -⟩ := finishBody_frame body
      exact .inr ⟨alg, nn, variant⟩
    | malformed => exact .inr ⟨setFatal_alg s _, setFatal_nn s _, setFatal_variant s _⟩

/-- With FIN = 1 FINISH's body does nothing (40_engine R124). -/
theorem finishBody_finished {a : Alg} {s : State} (fin : s.fin = true) : finishBody a s = .ok s := by
  simp [finishBody, fin]

/-- Settles O16: with FIN = 1 an ADD is rejected, and what finishes has nothing left to do. -/
theorem finishedStateIsFrozen : Obligations.FinishedStateIsFrozen := by
  intro i s t hi fin h
  cases HostCase.of_exec hi h with
  | rejected | read => exact .inr rfl
  | started algid nnreq var _ instr => exact .inl ⟨algid, nnreq, var, instr⟩
  | added _ _ _ _ _ _ _ fin' => cases fin.symm.trans fin'
  | finished _ _ _ _ _ _ _ body =>
    cases (finishBody_finished fin).symm.trans body
    exact .inr rfl
  | malformed _ _ _ _ _ body => cases (finishBody_finished fin).symm.trans body

/-- Settles O17: the other operations keep FIN, FINISH's body sets it and INIT clears it. -/
theorem onlyFinishingSetsFin : Obligations.OnlyFinishingSetsFin := by
  intro i s t h
  have kept (e : t.fin = s.fin) :
      (s.fin = false → t.fin = true → i = .finish ∨ i = .tobin ∨ i = .tohex) ∧
      (s.fin = true → t.fin = false → ∃ algid nnreq var, i = .init algid nnreq var) := by
    rw [e]; simp +contextual
  cases hi : i.isHostCommand with
  | false =>
    obtain ⟨-, -, -, fin⟩ := exec_internal_frame hi h
    exact kept fin
  | true =>
    cases HostCase.of_exec hi h with
    | rejected | read => exact kept rfl
    | started algid nnreq var _ instr =>
      exact ⟨fun _ (set : false = true) => (by cases set), fun _ _ => ⟨algid, nnreq, var, instr⟩⟩
    | added _ _ _ _ _ _ _ _ _ _ frame => exact kept frame.fin
    | finished _ u _ instr _ _ _ body =>
      obtain ⟨-, -, -, fin, -⟩ := finishBody_frame body
      exact ⟨fun _ _ => instr, fun _ (clear : u.fin = false) => by cases fin.symm.trans clear⟩
    | malformed => exact kept (setFatal_fin s _)

/-- Settles O18: a rejection, STAT and ADD keep DIG, and the other cases are the commands named. -/
theorem onlyInitAndFinishingWriteTheDigest : Obligations.OnlyInitAndFinishingWriteTheDigest := by
  intro i s t hi h
  have finishes (instr : i = .finish ∨ i = .tobin ∨ i = .tohex) :
      t.dig = s.dig ∨ i = .finish ∨ i = .tobin ∨ i = .tohex ∨
        ∃ algid nnreq var, i = .init algid nnreq var := by
    rcases instr with rfl | rfl | rfl <;> simp
  cases HostCase.of_exec hi h with
  | rejected | read => exact .inl rfl
  | started algid nnreq var _ instr => exact .inr (.inr (.inr (.inr ⟨algid, nnreq, var, instr⟩)))
  | added _ _ _ _ _ _ _ _ _ _ frame => exact .inl frame.dig
  | finished _ _ _ instr | malformed _ instr => exact finishes instr

/-! ## The status word (10_state R33) -/

/-- A field of STATUS: the value shifted to its lowest bit (10_state R33). -/
def statusField {w : Nat} (x : BitVec w) (k : Nat) : BitVec 32 := x.setWidth 32 <<< k

/-- A field shows at its own bits. -/
theorem statusField_own {w : Nat} (x : BitVec w) (k : Nat) (h : k + w ≤ 32) :
    (statusField x k).extractLsb' k w = x := by
  ext j hj
  have h1 : k + j < 32 := by omega
  simp [statusField, h1, BitVec.getLsbD_eq_getElem hj]

/-- A field is 0 above and below its own bits. -/
theorem statusField_other {w : Nat} (x : BitVec w) {k p n : Nat} (h : k + w ≤ p ∨ p + n ≤ k) :
    (statusField x k).extractLsb' p n = 0 := by
  ext j hj
  rcases h with h | h
  · simp [statusField, BitVec.getLsbD_of_ge x (p + j - k) (by omega)]
  · have hlt : p + j < k := by omega
    simp [statusField, hlt]

/-- STATUS as the six fields it is made of. -/
theorem status_eq_fields (s : State) :
    s.status = statusField s.algId 0 ||| statusField s.nn 8 ||| statusField s.variant 15 |||
      statusField (BitVec.ofBool s.fin) 16 ||| statusField (BitVec.ofBool s.fatal) 17 |||
      statusField s.lasterr.bits 20 := by
  simp [statusField, State.status]

/-- Settles O28: of the six fields one shows at the bits asked for, and the others are 0 there. -/
theorem statusWordLayout : Obligations.StatusWordLayout := by
  intro s
  simp [status_eq_fields, BitVec.extractLsb'_or, statusField_own, statusField_other]

end Sys2Proof.Machine


namespace Sys2Proof.Machine

/-! # What cannot be observed (10_state R34)

`SameObservable` is a simulation: each operation over the state keeps it, so each command does. -/

theorem SameObservable.payload_eq {s t : State} (o : SameObservable s t) : s.payload = t.payload := by
  rw [State.payload, State.payload, o.inbox]

theorem SameObservable.msgLen_eq {s t : State} (o : SameObservable s t) : s.msgLen = t.msgLen := by
  rw [State.msgLen, State.msgLen, o.count, o.plen]

theorem SameObservable.status_eq {s t : State} (o : SameObservable s t) : s.status = t.status := by
  simp only [State.status, State.algId, o.alg, o.nn, o.variant, o.fin, o.fatal, o.lasterr]

theorem SameObservable.fetch_eq {s t : State} (o : SameObservable s t) : fetch s = fetch t := by
  simp only [fetch, o.sel, o.inbox]

theorem SameObservable.checkSelected_eq {s t : State} (o : SameObservable s t) (k : Nat) :
    checkSelected k s = checkSelected k t := by
  simp only [checkSelected, selectedAlg, o.payload_eq, o.fatal, o.alg]

/-! ## Responses -/

theorem SameObservable.after_setLastErr {s t : State} (o : SameObservable s t) (code : ResultCode) :
    SameObservable (setLastErr code s) (setLastErr code t) :=
  { o with lasterr := rfl }

theorem SameObservable.after_respond {s t : State} (o : SameObservable s t) (code : ResultCode)
    (data : List Byte) : SameObservable (respond code data s) (respond code data t) :=
  { o with
    inbox := congrArg List.tail o.inbox
    outbox := by simp only [respond_outbox, o.outbox, o.status_eq] }

theorem SameObservable.after_reject {s t : State} (o : SameObservable s t) (code : ResultCode) :
    SameObservable (reject code s) (reject code t) :=
  (o.after_setLastErr code).after_respond code []

theorem SameObservable.after_accept {s t : State} (o : SameObservable s t) (data : List Byte) :
    SameObservable (accept data s) (accept data t) :=
  (o.after_setLastErr .ok).after_respond .ok data

theorem SameObservable.after_initRegs {s t : State} (o : SameObservable s t) (a : Alg) (nn : BitVec 7)
    (var : BitVec 1) : SameObservable (initRegs a nn var s) (initRegs a nn var t) :=
  { o with
    alg := rfl, nn := rfl, variant := rfl, h := fun _ _ _ _ => rfl, count := rfl, pbuf := rfl, plen := rfl,
    fin := rfl, dig := rfl, fatal := rfl }

/-- E_PAD_INTERNAL keeps every register but FATAL and LASTERR (60_exceptions R377). -/
theorem SameObservable.after_padInternal {s t : State} (o : SameObservable s t) :
    SameObservable (failFatal .padInternal s) (failFatal .padInternal t) :=
  have f : SameObservable (setFatal .padInternal s) (setFatal .padInternal t) :=
    { o with fatal := rfl, lasterr := rfl }
  f.after_respond .padInternal []

/-! ## ADD -/

/-- Both computations succeed, with states that differ only where no command can look. -/
def OkObservable (x y : Except ResultCode State) : Prop :=
  ∃ u v, x = .ok u ∧ y = .ok v ∧ SameObservable u v

/-- Beyond PBUF's end nothing is written, so the pending bytes stay (notes/assumptions/9.md). -/
theorem pending_eq_pbuf {s : State} (h : 128 ≤ s.plen.toNat) : s.pending = s.pbuf.toList :=
  List.take_of_length_le (by simpa using h)

theorem SameObservable.after_appendByte {s t : State} (o : SameObservable s t) (b : Byte) :
    SameObservable (appendByte b s) (appendByte b t) :=
  { o with
    plen := by simp only [appendByte_plen, o.plen]
    pbuf := by
      by_cases room : s.plen.toNat < 128
      · rw [appendByte_pending room, appendByte_pending (o.plen ▸ room), o.pbuf]
      · have full := Nat.le_of_not_lt room
        have same : s.pbuf.toList = t.pbuf.toList := by
          rw [← pending_eq_pbuf full, ← pending_eq_pbuf (o.plen ▸ full), o.pbuf]
        simp only [State.pending, appendByte_pbuf, appendByte_plen, Vector.toList_setIfInBounds, same, o.plen] }

theorem SameObservable.blockFull_eq {s t : State} (o : SameObservable s t) (a : Alg) :
    blockFull a s = blockFull a t := by
  rw [blockFull, blockFull, o.plen]

/-- A full block is all of the pending bytes, so it can be observed (10_state R26). -/
theorem SameObservable.after_flushBlock {s t : State} {a : Alg} (o : SameObservable s t) (alg : s.alg = some a)
    (full : blockFull a s = true) : OkObservable (flushBlock a s) (flushBlock a t) := by
  have block : s.pbuf.toList.take a.desc.bs.bytes = t.pbuf.toList.take a.desc.bs.bytes := by
    have plen : s.plen.toNat = a.desc.bs.bytes := by simpa [blockFull] using full
    rw [← plen]
    exact o.pbuf.trans (by rw [State.pending, o.plen])
  obtain ⟨h, eh, es⟩ := flushBlock_ok a s
  obtain ⟨k, ek, et⟩ := flushBlock_ok a t
  rw [← block, ← o.count] at ek
  exact ⟨_, _, es, et, { o with
    h := fun a' alg' i hi => by
      obtain rfl : a = a' := Option.some.inj (alg.symm.trans alg')
      exact compressBlock_congr (o.h a alg) eh ek i hi
    count := by simp only [o.count]
    plen := rfl
    pbuf := rfl }⟩

theorem SameObservable.after_absorbByte {s t : State} {a : Alg} (o : SameObservable s t) (alg : s.alg = some a)
    (b : Byte) : OkObservable (absorbByte a s b) (absorbByte a t b) := by
  unfold absorbByte
  by_cases hs : a.desc.scheme = .blake
  · rw [if_pos hs, if_pos hs, ← o.blockFull_eq]
    cases full : blockFull a s with
    | true =>
      obtain ⟨u, v, eu, ev, o'⟩ := o.after_flushBlock alg full
      exact ⟨_, _, by rw [eu]; rfl, by rw [ev]; rfl, o'.after_appendByte b⟩
    | false => exact ⟨_, _, rfl, rfl, o.after_appendByte b⟩
  · rw [if_neg hs, if_neg hs]
    simp only [← (o.after_appendByte b).blockFull_eq]
    cases full : blockFull a (appendByte b s) with
    | true => exact (o.after_appendByte b).after_flushBlock alg full
    | false => exact ⟨_, _, rfl, rfl, o.after_appendByte b⟩

theorem SameObservable.after_absorb {s t : State} {a : Alg} (o : SameObservable s t) (alg : s.alg = some a)
    (p : List Byte) : OkObservable (absorb a p s) (absorb a p t) := by
  induction p generalizing s t with
  | nil => exact ⟨s, t, rfl, rfl, o⟩
  | cons b p ih =>
    obtain ⟨u, v, eu, ev, o'⟩ := o.after_absorbByte alg b
    obtain ⟨u', eu', frame⟩ := absorbByte_ok a s b
    obtain rfl : u' = u := Except.ok.inj (eu'.symm.trans eu)
    simpa only [absorb, eu, ev] using ih o' (frame.alg.trans alg)

/-! ## FINISH, TOBIN and TOHEX -/

theorem SameObservable.dig_getD {s t : State} (o : SameObservable s t) {i : Nat} (hi : i < s.nn.toNat) :
    s.dig.toList.getD i 0 = t.dig.toList.getD i 0 := by
  have same := congrArg (List.getD · i 0) o.dig
  simpa [State.digest, List.getD_eq_getElem?_getD, List.getElem?_take, hi, ← o.nn] using same

/-- The digest written is the state's words, and `DIG[0..NN)` as it was where there are no more of them. -/
theorem SameObservable.after_writeDigest {s t : State} {a : Alg} {h k : HRegs} (o : SameObservable s t)
    (same : ∀ i < a.desc.sw, hReg h i = hReg k i) :
    (writeDigest a { s with h := h }).digest = (writeDigest a { t with h := k }).digest := by
  simp only [State.digest, writeDigest, tab_toList, ← o.nn, serialize_congr same, ← List.map_take,
    List.take_range]
  refine List.map_congr_left fun i hi => ?_
  rw [o.dig_getD (by simp at hi; omega)]

theorem SameObservable.after_sealMessage {s t : State} {a : Alg} {h k : HRegs} (o : SameObservable s t)
    (alg : s.alg = some a) (same : ∀ i < a.desc.sw, hReg h i = hReg k i) (len : Nat) :
    SameObservable (sealMessage a len h s) (sealMessage a len k t) :=
  { o with
    h := fun a' alg' i hi => by
      obtain rfl : a = a' := Option.some.inj (alg.symm.trans alg')
      exact same i hi
    count := rfl
    pbuf := rfl
    plen := rfl
    fin := rfl
    dig := o.after_writeDigest same }

/-- FINISH's body has the same end in both states. -/
theorem SameObservable.after_finishBody {s t : State} {a : Alg} (o : SameObservable s t) (alg : s.alg = some a) :
    OkObservable (finishBody a s) (finishBody a t) ∨
      (finishBody a s = .error .padInternal ∧ finishBody a t = .error .padInternal) := by
  have tail : padTail a.desc.scheme.padsel a.desc.bs s.pending s.msgLen = .ok (tailOf a s) :=
    padTail_scheme _ _ _ _
  simp only [finishBody, ← o.fin, ← o.msgLen_eq, ← o.pbuf, tail]
  cases s.fin with
  | true => exact .inl ⟨s, t, rfl, rfl, o⟩
  | false =>
    obtain ⟨h, eh⟩ := compressTail_ok a (BitVec.ofNat 128 s.msgLen) (a.desc.scheme == .blake)
      ((tailOf a s).length / a.desc.bs.bytes) (tailOf a s) s.h
    obtain ⟨k, ek⟩ := compressTail_ok a (BitVec.ofNat 128 s.msgLen) (a.desc.scheme == .blake)
      ((tailOf a s).length / a.desc.bs.bytes) (tailOf a s) t.h
    have same := compressTail_congr (o.h a alg) eh ek
    simp only [eh, ek, Bool.false_eq_true, if_false]
    split
    · exact .inr ⟨rfl, rfl⟩
    · exact .inl ⟨_, _, rfl, rfl, o.after_sealMessage alg same _⟩

/-! ## Every command -/

/-- Both outcomes are next states, which differ only where no command can look. -/
def NextObservable (x y : Host.Outcome State Fault Refusal) : Prop :=
  ∃ u v, x = .next u ∧ y = .next v ∧ SameObservable u v

theorem SameObservable.after_finishing {s t : State} (o : SameObservable s t) {data : State → List Byte}
    (same : ∀ u v, SameObservable u v → data u = data v) :
    NextObservable (finishing data s) (finishing data t) := by
  unfold finishing
  rw [← o.checkSelected_eq]
  cases hc : checkSelected 0 s with
  | error c => exact ⟨_, _, rfl, rfl, o.after_reject c⟩
  | ok a =>
    obtain ⟨-, -, alg⟩ := checkSelected_ok.mp hc
    rcases o.after_finishBody alg with ⟨u, v, eu, ev, o'⟩ | ⟨es, et⟩
    · simp only [eu, ev, same u v o']
      exact ⟨_, _, rfl, rfl, o'.after_accept _⟩
    · simp only [es, et]
      exact ⟨_, _, rfl, rfl, o.after_padInternal⟩

theorem SameObservable.after_execAdd {s t : State} (o : SameObservable s t) (n : BitVec 24) :
    NextObservable (execAdd n s) (execAdd n t) := by
  simp only [execAdd, ← o.checkSelected_eq, ← o.fin, ← o.msgLen_eq, ← o.payload_eq]
  cases hc : checkSelected n.toNat s with
  | error c => exact ⟨_, _, rfl, rfl, o.after_reject c⟩
  | ok a =>
    obtain ⟨-, -, alg⟩ := checkSelected_ok.mp hc
    obtain ⟨u, v, eu, ev, o'⟩ := o.after_absorb alg s.payload
    simp only [eu, ev]
    split
    · exact ⟨_, _, rfl, rfl, o.after_reject _⟩
    · split
      · exact ⟨_, _, rfl, rfl, o.after_reject _⟩
      · exact ⟨_, _, rfl, rfl, o'.after_accept []⟩

theorem SameObservable.after_execInit {s t : State} (o : SameObservable s t) (algid : BitVec 8) (nnreq : BitVec 7)
    (var : BitVec 1) : NextObservable (execInit algid nnreq var s) (execInit algid nnreq var t) := by
  simp only [execInit, ← o.payload_eq]
  split
  · split
    · exact ⟨_, _, rfl, rfl, (o.after_initRegs _ _ var).after_accept []⟩
    · exact ⟨_, _, rfl, rfl, o.after_reject _⟩
  · exact ⟨_, _, rfl, rfl, o.after_reject _⟩

theorem SameObservable.after_execStat {s t : State} (o : SameObservable s t) :
    NextObservable (execStat s) (execStat t) := by
  simp only [execStat, ← o.payload_eq]
  split
  · exact ⟨_, _, rfl, rfl, o.after_respond .ok []⟩
  · exact ⟨_, _, rfl, rfl, o.after_reject _⟩

theorem SameObservable.after_exec {i : Instr} {s t : State} (o : SameObservable s t)
    (hi : i.isHostCommand = true) : NextObservable (exec i s) (exec i t) := by
  cases i with
  | stat => exact o.after_execStat
  | init algid nnreq var => exact o.after_execInit algid nnreq var
  | add n => exact o.after_execAdd n
  | finish => exact o.after_finishing fun _ _ _ => rfl
  | tobin => exact o.after_finishing fun _ _ o' => o'.dig
  | tohex => exact o.after_finishing fun _ _ o' => congrArg hexText o'.dig
  | _ => cases hi

/-- With no selector waiting, a step is idle, rejects a command word, or performs a host command. -/
theorem fetch_of_no_selector {s : State} (sel : s.sel = none) :
    fetch s = .idle ∨ fetch s = .illegalCommand ∨ ∃ i, fetch s = .instr i ∧ i.isHostCommand = true := by
  unfold fetch
  rw [sel]
  cases s.inbox with
  | nil => exact .inl rfl
  | cons tx _ =>
    cases hd : decodeCommand tx.cw with
    | error _ => exact .inr (.inl (by simp [hd]))
    | ok i => exact .inr (.inr ⟨i, by simp [hd], decodeCommand_host hd⟩)

/-- Settles O40: `SameObservable` is kept by every kind of step, and the two states fetch the same. -/
theorem hiddenBytesAreUnobservable : Obligations.HiddenBytesAreUnobservable := by
  intro s t s' o sel h
  have both : NextObservable (step s) (step t) := by
    simp only [step, ← o.fetch_eq]
    rcases fetch_of_no_selector sel with e | e | ⟨i, e, hi⟩ <;> rw [e]
    · exact ⟨s, t, rfl, rfl, o⟩
    · exact ⟨_, _, rfl, rfl, o.after_reject .illegalCmd⟩
    · exact o.after_exec hi
  obtain ⟨u, v, eu, ev, o'⟩ := both
  obtain rfl := Host.Outcome.next.inj (eu.symm.trans h)
  exact ⟨v, ev, o'⟩

end Sys2Proof.Machine


namespace Sys2Proof.Machine

/-! # Totality of a step, and chunking (20_memory R67, R68, 40_engine R122, R128)

## Every step gives a next state -/

/-- Settles O9: a command, a reserved selector and an idle engine each have a next state, and so has every
operation that decodes, a host command or an internal one. -/
theorem everyStepGivesANextState : Obligations.EveryStepGivesANextState := by
  intro s
  rcases step_cases s with ⟨-, -, e⟩ | ⟨_, _, _, -, -, -, e⟩ | ⟨_, _, i, -, -, -, host, e⟩ |
    ⟨_, _, -, -, e⟩ | ⟨_, i, -, -, internal, e⟩
  · exact ⟨_, e⟩
  · exact ⟨_, e⟩
  · obtain ⟨t, h, -⟩ := exec_host_cases i host s
    exact ⟨t, e.trans h⟩
  · exact ⟨_, e⟩
  · rcases exec_internal_cases i internal s with h | ⟨_, _, h⟩ <;> exact ⟨_, e.trans h⟩

/-! ## ADD's loop does not see the channels -/

section Channels

variable (i : List Transaction) (o : List Response) (c : ResultCode)

/-- The state with other channels to the host and another LASTERR. -/
def State.withChannels (s : State) : State := { s with inbox := i, outbox := o, lasterr := c }

theorem flushBlock_withChannels (a : Alg) (s : State) :
    flushBlock a (s.withChannels i o c) = (flushBlock a s).map (State.withChannels i o c) := by
  obtain ⟨h, compressed, e⟩ := flushBlock_ok a s
  obtain ⟨h', compressed', e'⟩ := flushBlock_ok a (s.withChannels i o c)
  obtain rfl := Except.ok.inj (compressed.symm.trans compressed')
  rw [e, e']
  rfl

theorem absorbByte_withChannels (a : Alg) (s : State) (b : Byte) :
    absorbByte a (s.withChannels i o c) b = (absorbByte a s b).map (State.withChannels i o c) := by
  have appended : appendByte b (s.withChannels i o c) = (appendByte b s).withChannels i o c := rfl
  have full (t : State) : blockFull a (t.withChannels i o c) = blockFull a t := rfl
  simp only [absorbByte, appended, full, flushBlock_withChannels]
  by_cases scheme : a.desc.scheme = .blake
  · rw [if_pos scheme, if_pos scheme]
    cases flushBlock a s <;> split <;> rfl
  · rw [if_neg scheme, if_neg scheme]
    split <;> rfl

/-- ADD's loop does the same to the registers whatever the channels and LASTERR hold (40_engine R122). -/
theorem absorb_withChannels (a : Alg) (p : List Byte) (s : State) :
    absorb a p (s.withChannels i o c) = (absorb a p s).map (State.withChannels i o c) := by
  induction p generalizing s with
  | nil => rfl
  | cons b p ih =>
    obtain ⟨t, e, -⟩ := absorbByte_ok a s b
    simp only [absorb, absorbByte_withChannels, e, Except.map, ih]

end Channels

/-! ## An ADD that succeeds -/

theorem absorb_frame {a : Alg} {p : List Byte} {s t : State} (e : absorb a p s = .ok t) :
    SameButStream s t := by
  obtain ⟨t', e', frame⟩ := absorb_ok a p s
  obtain rfl := Except.ok.inj (e'.symm.trans e)
  exact frame

/-- An ADD of `n` bytes passes every check, and its loop ends in `t` (40_engine R122, 60_exceptions R371). -/
structure AddAccepted (a : Alg) (n : BitVec 24) (s t : State) : Prop where
  payload : s.payload.length = n.toNat
  fatal : s.fatal = false
  alg : s.alg = some a
  fin : s.fin = false
  limit : s.msgLen + n.toNat ≤ Config.maxMsgBytes
  loop : absorb a s.payload s = .ok t

theorem AddAccepted.exec_eq {a : Alg} {n : BitVec 24} {s t : State} (add : AddAccepted a n s t) :
    exec (.add n) s = .next (accept [] t) := by
  have admitted : checkSelected n.toNat s = .ok a := checkSelected_ok.mpr ⟨add.payload, add.fatal, add.alg⟩
  simp [exec, execAdd, admitted, add.fin, add.limit, add.loop]

/-- An ADD that leaves OK in LASTERR was accepted (10_state R30). -/
theorem AddAccepted.of_exec {n : BitVec 24} {s u : State} (h : exec (.add n) s = .next u)
    (ok : u.lasterr = .ok) : ∃ a t, AddAccepted a n s t ∧ u = accept [] t := by
  rcases execAdd_cases n s with ⟨c, e, code⟩ | ⟨a, t, payload, fatal, alg, fin, limit, loop, -, e⟩
  · obtain rfl := Host.Outcome.next.inj (e.symm.trans h)
    obtain rfl : c = .ok := ok
    simp at code
  · exact ⟨a, t, ⟨payload, fatal, alg, fin, limit, loop⟩, Host.Outcome.next.inj (h.symm.trans e)⟩

/-- An accepted ADD adds its payload to the message length (10_state R25). -/
theorem AddAccepted.msgLen_eq {a : Alg} {n : BitVec 24} {s t : State} (add : AddAccepted a n s t)
    (inv : Inv s) : t.msgLen = s.msgLen + n.toNat := by
  have stream := (inv.messageInv add.fatal add.alg).stream add.fin
  have len := (absorb_stream stream (by rw [add.payload]; exact add.limit) add.loop).2
  rw [len, add.payload]

/-! ## Chunking -/

/-- The loop over `p ++ q`, with any channels, ends where the loop over `q` does when it starts where the loop
over `p` ended, again with any channels (40_engine R128). -/
theorem absorb_chunks {a : Alg} {p q : List Byte} {s t r : State} {i : List Transaction} {o : List Response}
    {c : ResultCode} (first : absorb a p s = .ok t)
    (second : absorb a q (t.withChannels i o c) = .ok r) (i' : List Transaction) :
    ∃ w, absorb a (p ++ q) { s with inbox := i' } = .ok w ∧ (accept [] w).regs = (accept [] r).regs := by
  obtain ⟨x, e, -⟩ := absorb_ok a q t
  have whole : absorb a (p ++ q) s = .ok x := by rw [absorb_append, first]; exact e
  have hr : r = x.withChannels i o c := by
    rw [absorb_withChannels, e] at second
    exact (Except.ok.inj second).symm
  refine ⟨x.withChannels i' s.outbox s.lasterr, ?_, by rw [hr]; rfl⟩
  have h := absorb_withChannels i' s.outbox s.lasterr a (p ++ q) s
  rwa [whole] at h

/-- Settles O34: the loop over the whole payload is the two loops one after the other, and the message length
after the first is the one the whole payload is checked with. -/
theorem chunkingInvariance : Obligations.ChunkingInvariance := by
  intro s u v p q n k l cw rest inv hp hq hl hu uok hv vok
  obtain ⟨a, t, first, rfl⟩ := AddAccepted.of_exec hu uok
  obtain ⟨b, r, second, rfl⟩ := AddAccepted.of_exec hv vok
  obtain rfl : a = b :=
    Option.some.inj (first.alg.symm.trans ((absorb_frame first.loop).alg.symm.trans second.alg))
  obtain ⟨w, whole, regs⟩ := absorb_chunks first.loop second.loop (⟨cw, p ++ q⟩ :: rest)
  have len : t.msgLen = s.msgLen + n.toNat := first.msgLen_eq (inv.of_sameButLastErr inv.1 rfl)
  have limit : t.msgLen + k.toNat ≤ Config.maxMsgBytes := second.limit
  have accepted : AddAccepted a l { s with inbox := ⟨cw, p ++ q⟩ :: rest } w :=
    { payload := by rw [hl, ← hp, ← hq]; exact List.length_append
      fatal := first.fatal
      alg := first.alg
      fin := first.fin
      limit := by
        change s.msgLen + l.toNat ≤ _
        omega
      loop := whole }
  exact ⟨_, accepted.exec_eq, regs⟩

end Sys2Proof.Machine


namespace Sys2Proof

/-! # Encodings (30_encoding R81 to R94)

A word is the concatenation of its fields, so an encoding is known by the fields read from it. Decoding is then the
inverse of encoding, once for the command words and once for the selectors. -/

/-! ## Fields of a word -/

/-- The parts of a field that is a concatenation are its upper and lower bits. -/
theorem extractLsb'_eq_append_iff {m n k w : Nat} {hi : BitVec m} {lo : BitVec n} {x : BitVec w} :
    x.extractLsb' k (m + n) = hi ++ lo ↔ x.extractLsb' (k + n) m = hi ∧ x.extractLsb' k n = lo := by
  rw [← BitVec.extractLsb'_append_extractLsb'_eq_extractLsb' rfl]
  constructor
  · intro h
    have upper := congrArg (BitVec.extractLsb' n m) h
    have lower := congrArg (BitVec.extractLsb' 0 n) h
    rw [BitVec.extractLsb'_append_eq_left, BitVec.extractLsb'_append_eq_left] at upper
    rw [BitVec.extractLsb'_append_eq_right, BitVec.extractLsb'_append_eq_right] at lower
    exact ⟨upper, lower⟩
  · rintro ⟨rfl, rfl⟩
    rfl

/-- The parts of a word that is a concatenation are its upper and lower bits. -/
theorem eq_append_iff {m n : Nat} {hi : BitVec m} {lo : BitVec n} {x : BitVec (m + n)} :
    x = hi ++ lo ↔ x.extractLsb' n m = hi ∧ x.extractLsb' 0 n = lo := by
  have h := extractLsb'_eq_append_iff (hi := hi) (lo := lo) (x := x) (k := 0)
  rwa [BitVec.extractLsb'_eq_self, Nat.zero_add] at h

/-! ## Command words, field by field -/

/-- A command word by its OP and its operand (R81). -/
theorem command_eq_commandWord_iff {op : BitVec 4} {operand : BitVec 28} {cw : BitVec 32} :
    .command cw = commandWord op operand ↔ opField cw = op ∧ cw.extractLsb' 0 28 = operand := by
  rw [commandWord, Encoding.command.injEq]
  exact eq_append_iff (m := 4) (n := 28)

/-- INIT's word (R84). -/
theorem command_eq_encode_init_iff {algid : BitVec 8} {nnreq : BitVec 7} {var : BitVec 1} {cw : BitVec 32} :
    .command cw = encode (.init algid nnreq var) ↔
      opField cw = 1 ∧ cw.extractLsb' 16 12 = 0 ∧ cw.extractLsb' 15 1 = var ∧ cw.extractLsb' 8 7 = nnreq ∧
        cw.extractLsb' 0 8 = algid := by
  rw [encode, command_eq_commandWord_iff, extractLsb'_eq_append_iff (m := 20) (n := 8),
    extractLsb'_eq_append_iff (m := 13) (n := 7), extractLsb'_eq_append_iff (m := 12) (n := 1),
    and_assoc, and_assoc]
  rfl

/-- ADD's word (R86). -/
theorem command_eq_encode_add_iff {n : BitVec 24} {cw : BitVec 32} :
    .command cw = encode (.add n) ↔ opField cw = 2 ∧ cw.extractLsb' 24 4 = 0 ∧ cw.extractLsb' 0 24 = n :=
  command_eq_commandWord_iff.trans (and_congr_right' (extractLsb'_eq_append_iff (m := 4) (n := 24)))

/-! ## Decoding is the inverse of encoding -/

theorem ifReservedZero_ok_iff {b : Bool} {i j : Instr} :
    ifReservedZero b i = .ok j ↔ b = true ∧ i = j := by
  cases b <;> simp [ifReservedZero]

/-- A command word decodes to the command it is the encoding of (R83, R90). -/
theorem decodeCommand_ok_iff {cw : BitVec 32} {i : Instr} :
    decodeCommand cw = .ok i ↔ .command cw = encode i := by
  constructor
  · intro h
    unfold decodeCommand at h
    split at h
    case h_7 => cases h
    all_goals
      rename_i op
      obtain ⟨zero, rfl⟩ := ifReservedZero_ok_iff.mp h
    case h_2 =>
      exact command_eq_encode_init_iff.mpr ⟨BitVec.eq_of_toNat_eq op, eq_of_beq zero, rfl, rfl, rfl⟩
    case h_3 => exact command_eq_encode_add_iff.mpr ⟨BitVec.eq_of_toNat_eq op, eq_of_beq zero, rfl⟩
    all_goals exact command_eq_commandWord_iff.mpr ⟨BitVec.eq_of_toNat_eq op, eq_of_beq zero⟩
  · intro h
    cases i with
    | init =>
      obtain ⟨op, zero, rfl, rfl, rfl⟩ := command_eq_encode_init_iff.mp h
      simp [decodeCommand, ifReservedZero, op, zero]
    | add =>
      obtain ⟨op, zero, rfl⟩ := command_eq_encode_add_iff.mp h
      simp [decodeCommand, ifReservedZero, op, zero]
    | stat | finish | tobin | tohex =>
      obtain ⟨op, zero⟩ := command_eq_commandWord_iff.mp h
      simp [decodeCommand, ifReservedZero, op, zero]
    | _ => cases h

/-- STAT, FINISH, TOBIN and TOHEX by their fields (R87). -/
theorem decodeCommand_noOperand_iff {op : BitVec 4} {i : Instr} {cw : BitVec 32}
    (row : encode i = commandWord op 0) :
    decodeCommand cw = .ok i ↔ opField cw = op ∧ cw.extractLsb' 0 28 = 0 := by
  rw [decodeCommand_ok_iff, row, command_eq_commandWord_iff]

/-- INIT by its fields (R84). -/
theorem decodeCommand_init_iff {algid : BitVec 8} {nnreq : BitVec 7} {var : BitVec 1} {cw : BitVec 32} :
    decodeCommand cw = .ok (.init algid nnreq var) ↔
      opField cw = 1 ∧ cw.extractLsb' 16 12 = 0 ∧ cw.extractLsb' 15 1 = var ∧ cw.extractLsb' 8 7 = nnreq ∧
        cw.extractLsb' 0 8 = algid :=
  decodeCommand_ok_iff.trans command_eq_encode_init_iff

/-- ADD by its fields (R86). -/
theorem decodeCommand_add_iff {n : BitVec 24} {cw : BitVec 32} :
    decodeCommand cw = .ok (.add n) ↔ opField cw = 2 ∧ cw.extractLsb' 24 4 = 0 ∧ cw.extractLsb' 0 24 = n :=
  decodeCommand_ok_iff.trans command_eq_encode_add_iff

theorem ifAmtZero_ok_iff {amt : BitVec 7} {i j : Instr} :
    ifAmtZero amt i = .ok j ↔ amt = 0 ∧ i = j := by
  unfold ifAmtZero
  split <;> simp_all

/-- PADSEL decodes to the padding operation it is the encoding of (R92). -/
theorem decodePadsel_ok_iff {v : BitVec 2} {i : Instr} :
    decodePadsel v = .ok i ↔ .selector (.padsel v) = encode i := by
  constructor
  · intro h
    unfold decodePadsel at h
    split at h <;> cases h <;>
      exact congrArg (Encoding.selector ∘ Selector.padsel) (BitVec.eq_of_toNat_eq ‹_›)
  · intro h
    cases i with
    | padMdLe | padMdBe | padBlake => cases h; rfl
    | _ => cases h

/-- CSEL decodes to the compression unit it is the encoding of (R93). -/
theorem decodeCsel_ok_iff {v : BitVec 4} {i : Instr} :
    decodeCsel v = .ok i ↔ .selector (.csel v) = encode i := by
  constructor
  · intro h
    unfold decodeCsel at h
    split at h <;> cases h <;>
      exact congrArg (Encoding.selector ∘ Selector.csel) (BitVec.eq_of_toNat_eq ‹_›)
  · intro h
    cases i with
    | md5Compress | rmd128Compress | rmd160Compress | rmd256Compress | rmd320Compress | sha1Compress
    | sha256Compress | sha512Compress | blake2sCompress | blake2bCompress => cases h; rfl
    | _ => cases h

/-- A W64CTL by its fields (R94). -/
theorem w64ctl_eq_w64Word_iff {op : BitVec 3} {amt : BitVec 7} {v : BitVec 10} :
    .selector (.w64ctl v) = w64Word op amt ↔ v.extractLsb' 7 3 = op ∧ v.extractLsb' 0 7 = amt := by
  rw [w64Word, Encoding.selector.injEq, Selector.w64ctl.injEq]
  exact eq_append_iff (m := 3) (n := 7)

theorem w64Word_inj {op op' : BitVec 3} {amt amt' : BitVec 7} (h : w64Word op amt = w64Word op' amt') :
    op = op' ∧ amt = amt' := by
  obtain ⟨hop, hamt⟩ := w64ctl_eq_w64Word_iff.mp (Eq.refl (w64Word op amt))
  obtain ⟨hop', hamt'⟩ := w64ctl_eq_w64Word_iff.mp h
  exact ⟨hop.symm.trans hop', hamt.symm.trans hamt'⟩

/-- W64CTL decodes to the word64_alu operation it is the encoding of (R94). -/
theorem decodeW64ctl_ok_iff {v : BitVec 10} {i : Instr} :
    decodeW64ctl v = .ok i ↔ .selector (.w64ctl v) = encode i := by
  constructor
  · intro h
    unfold decodeW64ctl at h
    split at h
    case h_8 => cases h
    all_goals rename_i op
    case h_6 | h_7 =>
      cases h
      exact w64ctl_eq_w64Word_iff.mpr ⟨BitVec.eq_of_toNat_eq op, rfl⟩
    all_goals
      obtain ⟨amt, rfl⟩ := ifAmtZero_ok_iff.mp h
      exact w64ctl_eq_w64Word_iff.mpr ⟨BitVec.eq_of_toNat_eq op, amt⟩
  · intro h
    cases i with
    | w64Not | w64And | w64Or | w64Xor | w64Add =>
      obtain ⟨op, amt⟩ := w64ctl_eq_w64Word_iff.mp h
      simp [decodeW64ctl, ifAmtZero, op, amt]
    | w64Rotr | w64Shr =>
      obtain ⟨op, rfl⟩ := w64ctl_eq_w64Word_iff.mp h
      simp [decodeW64ctl, op]
    | _ => cases h

/-- An encoding decodes to the operation it is the encoding of (R83, R90 to R94). -/
theorem decode_ok_iff {e : Encoding} {i : Instr} : decode e = .ok i ↔ e = encode i := by
  match e with
  | .command _ => exact decodeCommand_ok_iff
  | .selector (.padsel _) => exact decodePadsel_ok_iff
  | .selector (.csel _) => exact decodeCsel_ok_iff
  | .selector (.w64ctl _) => exact decodeW64ctl_ok_iff

/-- Settles O2: decoding is the inverse of encoding. -/
theorem decodeOfEncode : Obligations.DecodeOfEncode := fun _ => decode_ok_iff.mpr rfl

/-- Settles O3: decoding is the inverse of encoding, read the other way. -/
theorem encodeOfDecode : Obligations.EncodeOfDecode := fun _ _ h => (decode_ok_iff.mp h).symm

/-! ## The table of host commands -/

/-- A field the mask covers is read from the pattern. -/
theorem field_of_masked {w k n : Nat} {x mask pattern : BitVec w} {v : BitVec n} (h : x &&& mask = pattern)
    (covered : mask.extractLsb' k n = BitVec.allOnes n) (value : pattern.extractLsb' k n = v) :
    x.extractLsb' k n = v := by
  rw [← value, ← h, BitVec.extractLsb'_and, covered, BitVec.and_allOnes]

/-- Settles O4: the mask covers OP and the reserved bits, and the other fields are read from the word. -/
theorem commandWordsFollowTheTable : Obligations.CommandWordsFollowTheTable := by
  intro cw
  have noOperand {op : BitVec 4} {i : Instr} (row : encode i = commandWord op 0)
      (h : cw &&& 0xFFFFFFFF = op ++ 0#28) : decodeCommand cw = .ok i :=
    (decodeCommand_noOperand_iff row).mpr
      ⟨field_of_masked h (by decide) BitVec.extractLsb'_append_eq_left,
        field_of_masked h (by decide) BitVec.extractLsb'_append_eq_right⟩
  refine ⟨noOperand (op := 0) rfl, fun h => ?_, fun h => ?_, noOperand (op := 3) rfl, noOperand (op := 4) rfl,
    noOperand (op := 5) rfl⟩
  · exact decodeCommand_init_iff.mpr
      ⟨field_of_masked h (by decide) (by decide), field_of_masked h (by decide) (by decide), rfl, rfl, rfl⟩
  · exact decodeCommand_add_iff.mpr
      ⟨field_of_masked h (by decide) (by decide), field_of_masked h (by decide) (by decide), rfl⟩

/-- Settles O1: closed words, each evaluated. -/
theorem exampleWordsDecode : Obligations.ExampleWordsDecode := by
  unfold Obligations.ExampleWordsDecode
  decide

/-! ## Legal commands (R89) -/

/-- OP as a number (R81). -/
theorem opField_eq_iff {cw : BitVec 32} {op : BitVec 4} : opField cw = op ↔ cw.toNat / 2 ^ 28 = op.toNat := by
  have lt := cw.isLt
  rw [← BitVec.toNat_inj, opField, BitVec.extractLsb'_toNat, Nat.shiftRight_eq_div_pow,
    Nat.mod_eq_of_lt (by omega)]

/-- A reserved field as a number. -/
theorem extractLsb'_eq_zero_iff {w k n : Nat} {x : BitVec w} :
    x.extractLsb' k n = 0 ↔ x.toNat / 2 ^ k % 2 ^ n = 0 := by
  rw [← BitVec.toNat_inj, BitVec.extractLsb'_toNat, Nat.shiftRight_eq_div_pow]
  rfl

/-- The payload length a host command needs (R86, R87). -/
def Instr.payloadLength : Instr → Nat
  | .add n => n.toNat
  | _ => 0

/-- A command R89 does not list has a word that decodes, and the payload length the command needs. -/
theorem decodes_of_not_illegal {cw : BitVec 32} {p : List Byte} (legal : ¬ Claims.illegal cw p) :
    ∃ i, decodeCommand cw = .ok i ∧ p.length = i.payloadLength := by
  simp only [Claims.illegal, ne_eq, ← List.length_eq_zero_iff] at legal
  have noOperand {op : BitVec 4} {i : Instr} (row : encode i = commandWord op 0)
      (h : cw.toNat / 2 ^ 28 = op.toNat) (hop : op.toNat = 0 ∨ op.toNat = 3 ∨ op.toNat = 4 ∨ op.toNat = 5) :
      decodeCommand cw = .ok i ∧ p.length = 0 := by
    rw [decodeCommand_noOperand_iff row, opField_eq_iff, extractLsb'_eq_zero_iff]
    omega
  have op : cw.toNat / 2 ^ 28 = 0 ∨ cw.toNat / 2 ^ 28 = 1 ∨ cw.toNat / 2 ^ 28 = 2 ∨ cw.toNat / 2 ^ 28 = 3 ∨
      cw.toNat / 2 ^ 28 = 4 ∨ cw.toNat / 2 ^ 28 = 5 := by omega
  rcases op with op | op | op | op | op | op
  · exact ⟨.stat, noOperand rfl op (by decide)⟩
  · have zero : cw.extractLsb' 16 12 = 0 := extractLsb'_eq_zero_iff.mpr (by omega)
    have length : p.length = 0 := by omega
    exact ⟨.init _ _ _, decodeCommand_init_iff.mpr ⟨opField_eq_iff.mpr op, zero, rfl, rfl, rfl⟩, length⟩
  · have zero : cw.extractLsb' 24 4 = 0 := extractLsb'_eq_zero_iff.mpr (by omega)
    have length : p.length = (cw.extractLsb' 0 24).toNat := by rw [BitVec.extractLsb'_toNat]; omega
    exact ⟨.add _, decodeCommand_add_iff.mpr ⟨opField_eq_iff.mpr op, zero, rfl⟩, length⟩
  · exact ⟨.finish, noOperand rfl op (by decide)⟩
  · exact ⟨.tobin, noOperand rfl op (by decide)⟩
  · exact ⟨.tohex, noOperand rfl op (by decide)⟩

/-- R89 does not list a command whose word decodes and whose payload has the length the command needs. -/
theorem not_illegal_of_decodes {cw : BitVec 32} {p : List Byte} {i : Instr} (h : decodeCommand cw = .ok i)
    (length : p.length = i.payloadLength) : ¬ Claims.illegal cw p := by
  simp only [Claims.illegal, ne_eq, ← List.length_eq_zero_iff]
  cases i with
  | init =>
    obtain ⟨hop, hzero, -⟩ := decodeCommand_init_iff.mp h
    have op : cw.toNat / 2 ^ 28 = 1 := opField_eq_iff.mp hop
    have zero := extractLsb'_eq_zero_iff.mp hzero
    have length : p.length = 0 := length
    omega
  | add =>
    obtain ⟨hop, hzero, rfl⟩ := decodeCommand_add_iff.mp h
    have op : cw.toNat / 2 ^ 28 = 2 := opField_eq_iff.mp hop
    have zero := extractLsb'_eq_zero_iff.mp hzero
    have length : p.length = (cw.extractLsb' 0 24).toNat := length
    rw [BitVec.extractLsb'_toNat] at length
    omega
  | stat | finish | tobin | tohex =>
    obtain ⟨op, hzero⟩ := (decodeCommand_noOperand_iff rfl).mp h
    simp only [opField_eq_iff, BitVec.ofNat_eq_ofNat, BitVec.toNat_ofNat] at op
    have zero := extractLsb'_eq_zero_iff.mp hzero
    have length : p.length = 0 := length
    omega
  | _ => cases Machine.decodeCommand_host h

/-- R89 lists exactly the commands whose word does not decode, or whose payload has another length than the
command needs. -/
theorem not_illegal_iff {cw : BitVec 32} {p : List Byte} :
    ¬ Claims.illegal cw p ↔ ∃ i, decodeCommand cw = .ok i ∧ p.length = i.payloadLength :=
  ⟨decodes_of_not_illegal, fun ⟨_, h, length⟩ => not_illegal_of_decodes h length⟩

end Sys2Proof


namespace Sys2Proof.Machine

open Sys2Proof.Claims

/-! # Decoding and steps (30_encoding R80, R82, R89, R91 to R94)

## What a step performs -/

section Step

variable {s : State} {i : Instr} {e : DecodeError}

theorem step_of_command {tx : Transaction} {rest : List Transaction} (sel : s.sel = none)
    (inbox : s.inbox = tx :: rest) (h : decodeCommand tx.cw = .ok i) : step s = exec i s := by
  simp [step, fetch, sel, inbox, h]

theorem step_of_illegalCommand {tx : Transaction} {rest : List Transaction} (sel : s.sel = none)
    (inbox : s.inbox = tx :: rest) (h : decodeCommand tx.cw = .error e) :
    step s = .next (reject .illegalCmd s) := by
  simp [step, fetch, sel, inbox, h, rejectCommandWord]

theorem step_of_selector {v : Selector} (sel : s.sel = some v) (h : decodeSelector v = .ok i) :
    step s = exec i s := by
  simp [step, fetch, sel, h]

theorem step_of_reservedSelector {v : Selector} (sel : s.sel = some v) (h : decodeSelector v = .error e) :
    step s = .next (unitReservedAlone s) := by
  simp [step, fetch, sel, h, rejectSelector]

end Step

/-- Settles O7: the fetch finds the selector first, and then the oldest command word. -/
theorem stepRunsTheDecodedOperation : Obligations.StepRunsTheDecodedOperation :=
  fun _ _ => ⟨fun _ _ => step_of_command, fun _ => step_of_selector⟩

/-! ## Reserved selectors -/

theorem unitReservedAlone_fatalAlone (s : State) : FatalAlone s (unitReservedAlone s) := by
  simp [FatalAlone, unitReservedAlone]

theorem decodeCsel_reserved : ∀ {v : BitVec 4}, 0xA ≤ v.toNat → decodeCsel v = .error .reservedCsel := by
  decide

/-- A reserved amount of W64_ROTR or W64_SHR raises E_UNIT_RESERVED (47_word64_alu R349). -/
theorem exec_w64Rotr_reserved {amt : BitVec 7} (h : 63 < amt.toNat) (s : State) :
    exec (.w64Rotr amt) s = .next (unitReservedAlone s) := by
  simp [exec, execW64Rotr, w64Op, Nat.not_le.mpr h]

theorem exec_w64Shr_reserved {amt : BitVec 7} (h : 64 < amt.toNat) (s : State) :
    exec (.w64Shr amt) s = .next (unitReservedAlone s) := by
  simp [exec, execW64Shr, w64Op, Nat.not_le.mpr h]

/-- A step with a reserved W64CTL waiting, whether it has no operation or one with a reserved amount (R349). -/
theorem step_of_reservedW64 {s : State} {op : BitVec 3} {amt : BitVec 7}
    (sel : s.sel = some (.w64ctl (op ++ amt))) (reserved : reservedW64 op.toNat amt.toNat) :
    step s = .next (unitReservedAlone s) := by
  cases hd : decodeSelector (.w64ctl (op ++ amt)) with
  | error => exact step_of_reservedSelector sel hd
  | ok i =>
    rw [step_of_selector sel hd]
    have word : w64Word op amt = encode i := decode_ok_iff.mp hd
    cases i with
    | w64Not | w64And | w64Or | w64Xor | w64Add =>
      obtain ⟨rfl, rfl⟩ := w64Word_inj word
      simp [reservedW64] at reserved
    | w64Rotr =>
      obtain ⟨rfl, rfl⟩ := w64Word_inj word
      exact exec_w64Rotr_reserved (by simpa [reservedW64] using reserved) s
    | w64Shr =>
      obtain ⟨rfl, rfl⟩ := w64Word_inj word
      exact exec_w64Shr_reserved (by simpa [reservedW64] using reserved) s
    | _ => cases word

/-- Settles O6: each of them raises E_UNIT_RESERVED with no transaction under execution. -/
theorem reservedSelectorsAreFatal : Obligations.ReservedSelectorsAreFatal := by
  intro s
  have fatal (e : step s = .next (unitReservedAlone s)) : ∃ t, step s = .next t ∧ FatalAlone s t :=
    ⟨_, e, unitReservedAlone_fatalAlone s⟩
  refine ⟨fun sel => fatal ?_, fun v sel reserved => fatal ?_, fun op amt sel reserved => fatal ?_⟩
  · exact step_of_reservedSelector (e := .reservedPadsel) sel rfl
  · exact step_of_reservedSelector sel (decodeCsel_reserved reserved)
  · exact step_of_reservedW64 sel reserved

/-! ## Illegal commands (R89) -/

@[simp] theorem lastCode_respond (code : ResultCode) (data : List Byte) (s : State) :
    lastCode (respond code data s) = some code := by
  simp [lastCode]

@[simp] theorem lastCode_accept (data : List Byte) (s : State) : lastCode (accept data s) = some .ok :=
  lastCode_respond ..

@[simp] theorem lastCode_reject (code : ResultCode) (s : State) : lastCode (reject code s) = some code :=
  lastCode_respond ..

@[simp] theorem lastCode_failFatal (code : ResultCode) (s : State) : lastCode (failFatal code s) = some code :=
  lastCode_respond ..

/-- The first check of a command is its payload length, and it alone gives E_ILLEGAL_CMD
(60_exceptions R371, check 1). -/
def PayloadChecked (n : Nat) (s : State) (o : Host.Outcome State Fault Refusal) : Prop :=
  (s.payload.length ≠ n ∧ o = .next (reject .illegalCmd s)) ∨
  (s.payload.length = n ∧ ∃ t, o = .next t ∧ lastCode t ≠ some .illegalCmd)

theorem finishing_payloadChecked (data : State → List Byte) (s : State) :
    PayloadChecked 0 s (finishing data s) := by
  simp only [PayloadChecked, ne_eq, List.length_eq_zero_iff]
  rcases finishing_cases data s with ⟨c, e, ⟨h, rfl⟩ | ⟨h, -, rfl⟩ | ⟨h, -, -, rfl⟩⟩ | ⟨_, t, h, -, -, -, e⟩ |
    ⟨_, h, -, -, -, e⟩
  · exact .inl ⟨h, e⟩
  all_goals exact .inr ⟨h, _, e, by simp⟩

theorem exec_payloadChecked {i : Instr} (hi : i.isHostCommand = true) (s : State) :
    PayloadChecked i.payloadLength s (exec i s) := by
  cases i with
  | stat =>
    simp only [PayloadChecked, ne_eq, Instr.payloadLength, List.length_eq_zero_iff]
    rcases execStat_cases s with ⟨h, e⟩ | ⟨h, e⟩
    · exact .inl ⟨h, e⟩
    · exact .inr ⟨h, _, e, by simp⟩
  | init algid nnreq var =>
    simp only [PayloadChecked, ne_eq, Instr.payloadLength, List.length_eq_zero_iff]
    rcases execInit_cases algid nnreq var s with ⟨h, e⟩ | ⟨h, -, e⟩ | ⟨h, a, -, e⟩
    · exact .inl ⟨h, e⟩
    all_goals exact .inr ⟨h, _, e, by simp⟩
  | add n =>
    rcases execAdd_cases n s with ⟨c, e, ⟨h, rfl⟩ | ⟨h, -, rfl⟩ | ⟨h, -, -, rfl⟩ | ⟨h, -, -, -, rfl⟩ |
      ⟨h, -, -, -, -, rfl⟩⟩ | ⟨a, u, h, -, -, -, -, -, -, e⟩
    · exact .inl ⟨h, e⟩
    all_goals exact .inr ⟨h, _, e, by simp⟩
  | finish | tobin | tohex => exact finishing_payloadChecked _ s
  | _ => cases hi

/-- Settles O5: the word decodes and the payload has the length the command needs, or check 1 rejects it. -/
theorem illegalCommandsAreRejected : Obligations.IllegalCommandsAreRejected := by
  intro s cw p rest sel inbox
  have payload : s.payload = p := by rw [State.payload, inbox]
  have illegal_case (e : step s = .next (reject .illegalCmd s)) (listed : ¬ ¬ illegal cw p) :
      (illegal cw p → ∃ t, step s = .next t ∧ RejectedWith .illegalCmd s t) ∧
      (¬ illegal cw p → ∃ t, step s = .next t ∧ lastCode t ≠ some .illegalCmd) :=
    ⟨fun _ => ⟨_, e, reject_rejectedWith _ s⟩, fun legal => absurd legal listed⟩
  cases decoded : decodeCommand cw with
  | error =>
    exact illegal_case (step_of_illegalCommand sel inbox decoded) (by simp [not_illegal_iff, decoded])
  | ok i =>
    have performed := step_of_command sel inbox decoded
    rcases exec_payloadChecked (decodeCommand_host decoded) s with ⟨wrong, e⟩ | ⟨right, completes⟩
    · exact illegal_case (performed.trans e) (by simp [not_illegal_iff, decoded, ← payload, wrong])
    · have legal : ¬ illegal cw p := not_illegal_of_decodes decoded (payload ▸ right)
      exact ⟨fun listed => absurd listed legal, fun _ => performed ▸ completes⟩

/-! ## Responses (R80, R82, 10_state R30) -/

theorem failFatal_padInternal_answered (s : State) : Answered .padInternal [] s (failFatal .padInternal s) :=
  ⟨rfl, rfl, rfl, rfl, rfl⟩

/-- `t` follows the transaction under execution in `s` with one response, whose code is in LASTERR unless the
transaction is a STAT that is read. -/
def AnsweredOnce (read : Prop) (s t : State) : Prop :=
  ∃ code data, Answered code data s t ∧ (code ≠ .ok → data = []) ∧ (t.lasterr = code ∨ read)

theorem reject_answeredOnce (read : Prop) (code : ResultCode) (s : State) : AnsweredOnce read s (reject code s) :=
  ⟨code, [], reject_answered code s, fun _ => rfl, .inl rfl⟩

theorem HostCase.answeredOnce {i : Instr} {s t : State} (c : HostCase i s t) :
    AnsweredOnce (i = .stat ∧ s.payload = []) s t := by
  cases c with
  | rejected c => exact reject_answeredOnce _ c s
  | read instr payload => exact ⟨.ok, [], ⟨rfl, rfl, rfl, rfl, rfl⟩, fun _ => rfl, .inr ⟨instr, payload⟩⟩
  | started => exact ⟨.ok, [], accept_answered [] rfl rfl rfl rfl rfl, fun _ => rfl, .inl rfl⟩
  | added _ _ _ _ _ _ _ _ _ _ frame =>
    exact ⟨.ok, [], accept_answered [] frame.inbox frame.outbox frame.sel frame.ports frame.draws, fun _ => rfl,
      .inl rfl⟩
  | finished _ _ data _ _ _ _ body =>
    obtain ⟨-, -, -, -, -, -, inbox, outbox, sel, ports, draws⟩ := finishBody_frame body
    exact ⟨.ok, data, accept_answered data inbox outbox sel ports draws, fun h => absurd rfl h, .inl rfl⟩
  | malformed => exact ⟨.padInternal, [], failFatal_padInternal_answered s, fun _ => rfl, .inl rfl⟩

/-- With a transaction waiting, a step answers it once; the STAT that is read is the word 0 with no payload. -/
theorem step_answeredOnce {s : State} {tx : Transaction} {rest : List Transaction} (sel : s.sel = none)
    (inbox : s.inbox = tx :: rest) :
    ∃ t, step s = .next t ∧ AnsweredOnce (tx.cw = 0 ∧ tx.payload = []) s t := by
  cases decoded : decodeCommand tx.cw with
  | error => exact ⟨_, step_of_illegalCommand sel inbox decoded, reject_answeredOnce _ _ s⟩
  | ok i =>
    obtain ⟨t, e, c⟩ := exec_host_cases i (decodeCommand_host decoded) s
    obtain ⟨code, data, answered, empty, last⟩ := c.answeredOnce
    refine ⟨t, (step_of_command sel inbox decoded).trans e, code, data, answered, empty, last.imp_right ?_⟩
    rintro ⟨rfl, payload⟩
    rw [State.payload, inbox] at payload
    exact ⟨Encoding.command.inj (decodeCommand_ok_iff.mp decoded), payload⟩

/-- A STAT with no payload answers OK with no data and writes no register (40_engine R127). -/
theorem step_statRead {s : State} {tx : Transaction} {rest : List Transaction} (sel : s.sel = none)
    (inbox : s.inbox = tx :: rest) (cw : tx.cw = 0) (payload : tx.payload = []) :
    step s = .next (respond .ok [] s) := by
  have empty : s.payload = [] := by rw [State.payload, inbox]; exact payload
  rw [step_of_command (i := .stat) sel inbox (by rw [cw]; rfl)]
  exact ((execStat_cases s).resolve_left fun ⟨nonempty, _⟩ => nonempty empty).2

/-- Settles O10: a command is answered once, and the STAT that is read leaves LASTERR alone. -/
theorem oneResponsePerCommand : Obligations.OneResponsePerCommand := by
  intro s tx rest sel inbox
  have tail : s.inbox.tail = rest := by rw [inbox]; rfl
  by_cases read : tx.cw = 0 ∧ tx.payload = []
  · exact ⟨_, ⟨.ok, s.status, []⟩, step_statRead sel inbox read.1 read.2, tail, rfl, rfl, fun _ => rfl,
      fun _ => ⟨rfl, rfl, rfl⟩, fun other => absurd read other⟩
  · obtain ⟨t, e, code, data, ⟨done, outbox, -⟩, empty, last⟩ := step_answeredOnce sel inbox
    exact ⟨t, ⟨code, t.status, data⟩, e, done.trans tail, outbox, rfl, empty, fun h => absurd h read,
      fun _ => last.resolve_right read⟩

end Sys2Proof.Machine


namespace Sys2Proof.Machine

/-! # ADD and the finishing commands on a message (40_engine R122 to R126)

`Absorbed` is the refinement relation between the registers and the message. ADD's loop extends the message byte by
byte, and FINISH's body compresses what is left of the padded message. -/

/-! ## ADD appends its payload -/

/-- ADD's loop appends its bytes to the message (40_engine R122, 20_memory R62). -/
theorem Absorbed.after_absorb {a : Alg} {size : BitVec 7} {m p : List Byte} {s t : State}
    (h : Absorbed a size m s) (limit : m.length + p.length ≤ Config.maxMsgBytes)
    (e : absorb a p s = .ok t) : Absorbed a size (m ++ p) t := by
  induction p generalizing m s with
  | nil =>
    obtain rfl : s = t := Except.ok.inj e
    simpa using h
  | cons b p ih =>
    rw [List.length_cons] at limit
    obtain ⟨u, eu, -⟩ := absorbByte_ok a s b
    rw [absorb, eu] at e
    have extended := ih (absorbByte_absorbed h (by omega) eu) (by simp; omega) e
    simpa using extended

/-- The message absorbed does not depend on LASTERR, nor on the channels. -/
theorem Absorbed.after_accept {a : Alg} {size : BitVec 7} {m : List Byte} {s : State}
    (h : Absorbed a size m s) (data : List Byte) : Absorbed a size m (accept data s) :=
  ⟨h.alg, h.nn, h.fin, h.fatal, h.length, h.count, h.plen, h.pending, h.h⟩

/-- Settles O30: the checks pass, and the loop appends the payload. -/
theorem addAppendsItsPayload : Obligations.AddAppendsItsPayload := by
  intro a size m n s h payload limit
  obtain ⟨t, loop, frame⟩ := absorb_ok a s.payload s
  have accepted : AddAccepted a n s t :=
    ⟨payload, h.fatal, h.alg, h.fin, by rw [h.msgLen_eq]; exact limit, loop⟩
  exact ⟨_, accepted.exec_eq,
    accept_answered [] frame.inbox frame.outbox frame.sel frame.ports frame.draws,
    (h.after_absorb (payload ▸ limit) loop).after_accept []⟩

/-! ## FINISH's body completes the digest -/

/-- Padding the whole message pads what follows its whole blocks (41_padding R160, R161). -/
theorem padded_eq_append_tailOf {a : Alg} {size : BitVec 7} {m : List Byte} {s : State}
    (h : Absorbed a size m s) (md : a.desc.scheme ≠ .blake) :
    a.padded m = m.take (a.blocksAbsorbed m.length * a.desc.bs.bytes) ++ tailOf a s := by
  have whole : (m.take (a.blocksAbsorbed m.length * a.desc.bs.bytes)).length % a.desc.bs.bytes = 0 := by
    rw [List.length_take, Nat.min_eq_left (blocksAbsorbed_le a m.length), Nat.mul_mod_left]
  unfold Alg.padded tailOf
  rw [h.pending, h.msgLen_eq]
  cases scheme : a.desc.scheme with
  | mdLe => simp only [← padMdLe_blocks _ _ _ _ whole, List.take_append_drop]
  | mdBe => simp only [← padMdBe_blocks _ _ _ _ whole, List.take_append_drop]
  | blake => exact absurd scheme md

/-- A Merkle–Damgård message is finished by compressing its padded tail (40_engine R124). -/
theorem Absorbed.compressTail_md {a : Alg} {size : BitVec 7} {m : List Byte} {s : State}
    (h : Absorbed a size m s) (md : a.desc.scheme ≠ .blake) (t : BitVec 128) (last : Bool) :
    compressTail a t last ((tailOf a s).length / a.desc.bs.bytes) (tailOf a s) s.h =
      .ok (a.finalH size m) := by
  have before := blocksAbsorbed_le a m.length
  have padded := padded_eq_append_tailOf h md
  generalize hn : a.blocksAbsorbed m.length = n at before padded
  have length : (m.take (n * a.desc.bs.bytes)).length = n * a.desc.bs.bytes := by simpa using before
  have blocks : (a.padded m).length / a.desc.bs.bytes = n + (tailOf a s).length / a.desc.bs.bytes := by
    rw [padded, List.length_append, length, Nat.add_comm, Nat.add_mul_div_right _ _ a.desc.bs.bytes_pos,
      Nat.add_comm]
  have start : s.h = a.fullBlocks n 0 (a.padded m) (a.initH size) := by
    rw [h.h, hn]
    exact fullBlocks_congr (by rw [padded, List.take_left' length])
  have rest : (a.padded m).drop (n * a.desc.bs.bytes) = tailOf a s := by
    rw [padded, List.drop_left' length]
  rw [Machine.compressTail_md md t last _ (0 + n * a.desc.bs.bytes), Alg.finalH, if_neg md, blocks, fullBlocks_add,
    rest, start]

/-- A BLAKE2 message is finished by compressing its last block, zero-padded (46_blake2 R319). -/
theorem Absorbed.compressTail_blake {a : Alg} {size : BitVec 7} {m : List Byte} {s : State}
    (h : Absorbed a size m s) (blake : a.desc.scheme = .blake) :
    compressTail a (BitVec.ofNat 128 m.length) true ((tailOf a s).length / a.desc.bs.bytes) (tailOf a s) s.h =
      .ok (a.finalH size m) := by
  have k : a.blocksAbsorbed m.length = (m.length - 1) / a.desc.bs.bytes := if_pos blake
  have tail : tailOf a s = padBlake a.desc.bs (m.drop ((m.length - 1) / a.desc.bs.bytes * a.desc.bs.bytes)) := by
    simp only [tailOf, blake, h.pending, k]
  have oneBlock : (tailOf a s).length = a.desc.bs.bytes := by
    have pos := a.desc.bs.bytes_pos
    have hlt := Nat.lt_div_mul_add (a := m.length - 1) pos
    rw [tail]
    exact padBlake_length _ _ (by rw [List.length_drop]; omega)
  rw [oneBlock, Nat.div_self a.desc.bs.bytes_pos, compressTail, compressBlock_eq_compress,
    List.take_of_length_le oneBlock.le, tail, h.h, k, Alg.finalH, if_pos blake]
  rfl

/-- FINISH's body seals the message with its final state registers (40_engine R124). -/
theorem Absorbed.finishBody_eq {a : Alg} {size : BitVec 7} {m : List Byte} {s : State}
    (h : Absorbed a size m s) : finishBody a s = .ok (sealMessage a m.length (a.finalH size m) s) := by
  have final : compressTail a (BitVec.ofNat 128 s.msgLen) (a.desc.scheme == .blake)
      ((tailOf a s).length / a.desc.bs.bytes) (tailOf a s) s.h = .ok (a.finalH size m) := by
    by_cases blake : a.desc.scheme = .blake
    · rw [h.msgLen_eq, blake]
      exact h.compressTail_blake blake
    · exact h.compressTail_md blake _ _
  rcases finishBody_cases a s with ⟨fin, -⟩ | ⟨-, -, -, k, tail, e⟩ | ⟨-, blake, long, -⟩
  · cases fin.symm.trans h.fin
  · obtain rfl := Except.ok.inj (tail.symm.trans final)
    rw [e, h.msgLen_eq]
  · have hlt := Nat.lt_div_mul_add (a := m.length - 1) a.desc.bs.bytes_pos
    rw [h.pending, List.length_drop, Alg.blocksAbsorbed, if_pos blake] at long
    omega

/-- A finishing command whose checks pass and whose body completes (40_engine R124 to R126). -/
theorem finishing_eq {a : Alg} {s t : State} (payload : s.payload = []) (fatal : s.fatal = false)
    (alg : s.alg = some a) (body : finishBody a s = .ok t) (data : State → List Byte) :
    finishing data s = .next (accept (data t) t) := by
  have admitted : checkSelected 0 s = .ok a :=
    checkSelected_ok.mpr ⟨by rw [payload]; rfl, fatal, alg⟩
  simp only [finishing, admitted, body]

/-- A finishing command that completes is answered OK (30_encoding R82). -/
theorem finishBody_answered {a : Alg} {s t : State} (body : finishBody a s = .ok t) (data : List Byte) :
    Answered .ok data s (accept data t) := by
  obtain ⟨-, -, -, -, -, -, inbox, outbox, sel, ports, draws⟩ := finishBody_frame body
  exact accept_answered data inbox outbox sel ports draws

/-- The digest of a sealed message (40_engine R124, 20_memory R64). -/
theorem sealMessage_digest {a : Alg} {s : State} (legal : a.nnLegal s.nn = true) (len : Nat) (h : HRegs) :
    (sealMessage a len h s).digest =
      serialize a.desc.endian a.desc.width.bits a.desc.sw s.nn.toNat h :=
  writeDigest_digest (s := { s with h := h }) legal

/-- DIG beyond NN is not written (10_state R28). -/
theorem sealMessage_dig_beyond {a : Alg} {s : State} (len : Nat) (h : HRegs) {i : Nat} (hi : i < 64)
    (beyond : s.nn.toNat ≤ i) :
    (sealMessage a len h s).dig.toList.getD i 0 = s.dig.toList.getD i 0 := by
  have none : (serialize a.desc.endian a.desc.width.bits a.desc.sw s.nn.toNat h)[i]? = none :=
    List.getElem?_eq_none (by rw [serialize_length]; omega)
  rw [sealMessage_dig, writeDigest, tab_getD, if_pos hi, none]
  rfl

/-- The digest of the message absorbed is what sealing it leaves in `DIG[0..NN)`. -/
theorem Absorbed.sealMessage_digest {a : Alg} {size : BitVec 7} {m : List Byte} {s : State}
    (h : Absorbed a size m s) (legal : a.nnLegal size = true) :
    (sealMessage a m.length (a.finalH size m) s).digest = a.digestOf size m := by
  rw [Machine.sealMessage_digest (h.nn.symm ▸ legal), h.nn]
  rfl

/-- Settles O35: FINISH's body seals the message, and the sealed registers are those of the statement. -/
theorem finishComputesTheDigest : Obligations.FinishComputesTheDigest := by
  intro a size m s h payload legal
  have body := h.finishBody_eq
  have hmax : Config.maxMsgBytes < 2 ^ 64 := by decide
  refine ⟨_, finishing_eq payload h.fatal h.alg body _, finishBody_answered body [], rfl,
    h.sealMessage_digest legal,
    fun i hi beyond => ?beyond, ?count, rfl, fun i hi => ?pbuf, rfl, rfl, rfl, rfl, h.fatal, rfl⟩
  case beyond => exact sealMessage_dig_beyond m.length (a.finalH size m) hi (h.nn ▸ beyond)
  case count => exact Nat.mod_eq_of_lt (h.length.trans_lt hmax)
  case pbuf => exact (tab_getD 128 _ i _).trans (if_pos hi)

/-- Settles O36: the digest of the sealed message is that of the message, and only the data differ from FINISH. -/
theorem tobinAndTohexReturnTheDigest : Obligations.TobinAndTohexReturnTheDigest := by
  intro a size m s h payload legal
  have body := h.finishBody_eq
  have finishes (data : State → List Byte) : finishing data s = .next (accept (data _) _) :=
    finishing_eq payload h.fatal h.alg body data
  have sameRegs (data : List Byte) (u : State) (e : exec .finish s = .next u) :
      (accept data (sealMessage a m.length (a.finalH size m) s)).regs = u.regs := by
    obtain rfl := Host.Outcome.next.inj ((finishes fun _ => []).symm.trans e)
    rfl
  refine ⟨⟨_, finishes State.digest, ?_, sameRegs _⟩, ⟨_, finishes fun u => hexText u.digest, ?_, sameRegs _⟩⟩
  · rw [h.sealMessage_digest legal]
    exact finishBody_answered body _
  · rw [h.sealMessage_digest legal]
    exact finishBody_answered body _

end Sys2Proof.Machine


namespace Sys2Proof

/-! # The variant cannot be observed but in STATUS[15] (40_engine R121, 10_state R23)

`State.forgetVar` is a functional simulation: a step from the state with every trace of the variant cleared leads to
the next state with every trace cleared. So two states that are equal once cleared stay so. -/

/-! ## INIT's word without its VAR bit (30_encoding R84) -/

/-- An operation with VAR = 0 if it is an INIT (R84). -/
def Instr.forgetVar : Instr → Instr
  | .init algid nnreq _ => .init algid nnreq 0
  | i => i

/-- A field the mask covers is kept. -/
theorem extractLsb'_and_of_covered {w k n : Nat} (x : BitVec w) {mask : BitVec w}
    (covered : mask.extractLsb' k n = BitVec.allOnes n) :
    (x &&& mask).extractLsb' k n = x.extractLsb' k n :=
  (field_of_masked rfl covered rfl).symm

theorem decodeCommand_of_opField_init {cw : BitVec 32} (op : opField cw = 1) :
    decodeCommand cw = ifReservedZero (cw.extractLsb' 16 12 == 0)
      (.init (cw.extractLsb' 0 8) (cw.extractLsb' 8 7) (cw.extractLsb' 15 1)) := by
  simp [decodeCommand, op]

/-- Clearing the VAR bit of an INIT word clears the operand it decodes to, and no other (R84). -/
theorem decodeCommand_clearVar {cw : BitVec 32} (op : opField cw = 1) :
    decodeCommand (cw &&& 0xFFFF7FFF) = (decodeCommand cw).map Instr.forgetVar := by
  have sameOp : opField (cw &&& 0xFFFF7FFF) = opField cw := extractLsb'_and_of_covered cw (by decide)
  have var : (cw &&& 0xFFFF7FFF).extractLsb' 15 1 = 0 := by
    rw [BitVec.extractLsb'_and]
    exact BitVec.and_zero
  rw [decodeCommand_of_opField_init (sameOp.trans op), decodeCommand_of_opField_init op, var,
    extractLsb'_and_of_covered cw (by decide), extractLsb'_and_of_covered cw (by decide),
    extractLsb'_and_of_covered cw (by decide)]
  unfold ifReservedZero
  split <;> rfl

/-- A word that is no INIT decodes to no INIT. -/
theorem decodeCommand_map_forgetVar_of_not_init {cw : BitVec 32} (op : opField cw ≠ 1) :
    (decodeCommand cw).map Instr.forgetVar = decodeCommand cw := by
  cases decoded : decodeCommand cw with
  | error => rfl
  | ok i =>
    cases i with
    | init => exact absurd (decodeCommand_init_iff.mp decoded).1 op
    | _ => rfl

end Sys2Proof

namespace Sys2Proof.Machine

theorem decodeCommand_forgetVar (tx : Transaction) :
    decodeCommand tx.forgetVar.cw = (decodeCommand tx.cw).map Instr.forgetVar := by
  by_cases op : opField tx.cw = 1
  · rw [Transaction.forgetVar, if_pos op]
    exact decodeCommand_clearVar op
  · rw [Transaction.forgetVar, if_neg op, decodeCommand_map_forgetVar_of_not_init op]

theorem Transaction.forgetVar_payload (tx : Transaction) : tx.forgetVar.payload = tx.payload := by
  unfold Transaction.forgetVar
  split <;> rfl

/-! ## STATUS without its bit 15 (10_state R33) -/

/-- A mask keeps of a STATUS field what it keeps of the field's bits. -/
theorem statusField_and {w : Nat} (x : BitVec w) (k : Nat) (mask : BitVec 32) :
    statusField x k &&& mask = statusField (x &&& mask.extractLsb' k w) k := by
  ext j hj
  by_cases below : j < k
  · simp [statusField, below]
  · have hk : k + (j - k) = j := by omega
    by_cases hw : j - k < w
    · simp [statusField, below, hw, hk, BitVec.getLsbD_eq_getElem hj]
    · simp [statusField, below, BitVec.getLsbD_of_ge x (j - k) (by omega)]

/-- With STATUS[15] cleared, the status word is that of the state without its variant. -/
theorem status_clearVar (s : State) : s.status &&& 0xFFFF7FFF = s.forgetVar.status := by
  have alg : (0xFFFF7FFF : BitVec 32).extractLsb' 0 8 = BitVec.allOnes 8 := by decide
  have nn : (0xFFFF7FFF : BitVec 32).extractLsb' 8 7 = BitVec.allOnes 7 := by decide
  have variant : (0xFFFF7FFF : BitVec 32).extractLsb' 15 1 = 0#1 := by decide
  have fin : (0xFFFF7FFF : BitVec 32).extractLsb' 16 1 = BitVec.allOnes 1 := by decide
  have fatal : (0xFFFF7FFF : BitVec 32).extractLsb' 17 1 = BitVec.allOnes 1 := by decide
  have lasterr : (0xFFFF7FFF : BitVec 32).extractLsb' 20 4 = BitVec.allOnes 4 := by decide
  simp only [status_eq_fields, BitVec.and_or_distrib_right, statusField_and, alg, nn, variant, fin, fatal, lasterr,
    BitVec.and_allOnes, BitVec.and_zero]
  rfl

/-! ## Each operation over the state commutes with clearing the variant -/

section Operations

variable (s : State)

@[simp] theorem forgetVar_h : s.forgetVar.h = s.h := rfl
@[simp] theorem forgetVar_fin : s.forgetVar.fin = s.fin := rfl
@[simp] theorem forgetVar_msgLen : s.forgetVar.msgLen = s.msgLen := rfl
@[simp] theorem forgetVar_pending : s.forgetVar.pending = s.pending := rfl

@[simp] theorem forgetVar_payload : s.forgetVar.payload = s.payload := by
  unfold State.payload State.forgetVar
  cases s.inbox with
  | nil => rfl
  | cons tx _ => exact tx.forgetVar_payload

@[simp] theorem checkSelected_forgetVar (k : Nat) : checkSelected k s.forgetVar = checkSelected k s := by
  simp only [checkSelected, forgetVar_payload]
  rfl

theorem respond_forgetVar (code : ResultCode) (data : List Byte) :
    respond code data s.forgetVar = (respond code data s).forgetVar := by
  simpa [respond, State.forgetVar, Response.forgetVar] using (status_clearVar s).symm

theorem reject_forgetVar (code : ResultCode) : reject code s.forgetVar = (reject code s).forgetVar :=
  respond_forgetVar (setLastErr code s) code []

theorem accept_forgetVar (data : List Byte) : accept data s.forgetVar = (accept data s).forgetVar :=
  respond_forgetVar (setLastErr .ok s) .ok data

theorem failFatal_forgetVar (code : ResultCode) :
    failFatal code s.forgetVar = (failFatal code s).forgetVar := by
  have fatal : setFatal code s.forgetVar = (setFatal code s).forgetVar := by
    unfold setFatal
    split <;> rfl
  rw [failFatal, fatal]
  exact respond_forgetVar (setFatal code s) code []

end Operations

/-! ## ADD's loop works on the streaming registers alone -/

section Stream

variable (t : State)

/-- `t` with the streaming registers H, COUNT, PBUF and PLEN of `s` (40_engine R122). -/
def State.withStream (s : State) : State := { t with h := s.h, count := s.count, pbuf := s.pbuf, plen := s.plen }

theorem flushBlock_withStream (a : Alg) (s : State) :
    flushBlock a (t.withStream s) = (flushBlock a s).map t.withStream := by
  obtain ⟨h, compressed, e⟩ := flushBlock_ok a s
  obtain ⟨h', compressed', e'⟩ := flushBlock_ok a (t.withStream s)
  obtain rfl := Except.ok.inj (compressed.symm.trans compressed')
  rw [e, e']
  rfl

theorem absorbByte_withStream (a : Alg) (s : State) (b : Byte) :
    absorbByte a (t.withStream s) b = (absorbByte a s b).map t.withStream := by
  have appended : appendByte b (t.withStream s) = t.withStream (appendByte b s) := rfl
  have full (u : State) : blockFull a (t.withStream u) = blockFull a u := rfl
  unfold absorbByte
  simp only [appended, full, flushBlock_withStream]
  by_cases scheme : a.desc.scheme = .blake
  · rw [if_pos scheme, if_pos scheme]
    cases flushBlock a s <;> split <;> rfl
  · rw [if_neg scheme, if_neg scheme]
    split <;> rfl

/-- ADD's loop does the same to the streaming registers whatever the other registers hold. -/
theorem absorb_withStream (a : Alg) (p : List Byte) (s : State) :
    absorb a p (t.withStream s) = (absorb a p s).map t.withStream := by
  induction p generalizing s with
  | nil => rfl
  | cons b p ih =>
    obtain ⟨u, e, -⟩ := absorbByte_ok a s b
    simp only [absorb, absorbByte_withStream, e, Except.map, ih]

end Stream

theorem SameButStream.forgetVar_eq {s u : State} (frame : SameButStream s u) :
    u.forgetVar = s.forgetVar.withStream u := by
  simp only [State.forgetVar, State.withStream, frame.alg, frame.nn, frame.fin, frame.dig, frame.fatal, frame.lasterr,
    frame.inbox, frame.outbox, frame.sel, frame.ports, frame.draws]

theorem absorb_forgetVar {a : Alg} {p : List Byte} {s u : State} (e : absorb a p s = .ok u) :
    absorb a p s.forgetVar = .ok u.forgetVar := by
  rw [(absorb_frame e).forgetVar_eq, (SameButStream.refl s).forgetVar_eq, absorb_withStream, e]
  rfl

/-! ## FINISH's body -/

theorem finishBody_forgetVar (a : Alg) (s : State) :
    finishBody a s.forgetVar = (finishBody a s).map State.forgetVar := by
  cases fin : s.fin with
  | true =>
    rw [finishBody_finished fin, finishBody_finished (s := s.forgetVar) fin]
    rfl
  | false =>
    simp only [finishBody, forgetVar_fin, forgetVar_msgLen, forgetVar_pending, forgetVar_h, fin,
      Bool.false_eq_true, if_false]
    cases padTail a.desc.scheme.padsel a.desc.bs s.pending s.msgLen with
    | error c => rfl
    | ok tail =>
      dsimp only
      split
      · rfl
      · cases compressTail a (BitVec.ofNat 128 s.msgLen) (a.desc.scheme == .blake)
          (tail.length / a.desc.bs.bytes) tail s.h <;> rfl

/-! ## Every command -/

/-- `y` is the next state of `x` with every trace of the variant cleared. -/
def NextForgetVar (x y : Host.Outcome State Fault Refusal) : Prop :=
  ∃ u, x = .next u ∧ y = .next u.forgetVar

theorem execStat_forgetVar (s : State) : NextForgetVar (execStat s) (execStat s.forgetVar) := by
  unfold execStat
  rw [forgetVar_payload, respond_forgetVar, reject_forgetVar]
  split
  · exact ⟨_, rfl, rfl⟩
  · exact ⟨_, rfl, rfl⟩

theorem execInit_forgetVar (algid : BitVec 8) (nnreq : BitVec 7) (var : BitVec 1) (s : State) :
    NextForgetVar (execInit algid nnreq var s) (execInit algid nnreq 0 s.forgetVar) := by
  unfold execInit
  rw [forgetVar_payload, reject_forgetVar, reject_forgetVar]
  split
  · split
    · exact ⟨_, rfl, congrArg _ (accept_forgetVar (initRegs _ _ var s) [])⟩
    · exact ⟨_, rfl, rfl⟩
  · exact ⟨_, rfl, rfl⟩

theorem execAdd_forgetVar (n : BitVec 24) (s : State) :
    NextForgetVar (execAdd n s) (execAdd n s.forgetVar) := by
  unfold execAdd
  rw [checkSelected_forgetVar]
  cases checkSelected n.toNat s with
  | error c => exact ⟨_, rfl, congrArg _ (reject_forgetVar s c)⟩
  | ok a =>
    obtain ⟨u, e, -⟩ := absorb_ok a s.payload s
    simp only [forgetVar_fin, forgetVar_msgLen, forgetVar_payload, reject_forgetVar, e, absorb_forgetVar e,
      accept_forgetVar]
    split
    · exact ⟨_, rfl, rfl⟩
    · split
      · exact ⟨_, rfl, rfl⟩
      · exact ⟨_, rfl, rfl⟩

theorem finishing_forgetVar {data : State → List Byte} (same : ∀ u : State, data u.forgetVar = data u) (s : State) :
    NextForgetVar (finishing data s) (finishing data s.forgetVar) := by
  unfold finishing
  rw [checkSelected_forgetVar]
  cases checkSelected 0 s with
  | error c => exact ⟨_, rfl, congrArg _ (reject_forgetVar s c)⟩
  | ok a =>
    simp only [finishBody_forgetVar]
    cases finishBody a s with
    | ok u => exact ⟨_, rfl, by simp only [Except.map, same, accept_forgetVar]⟩
    | error c => exact ⟨_, rfl, congrArg _ (failFatal_forgetVar s c)⟩

theorem exec_forgetVar {i : Instr} (host : i.isHostCommand = true) (s : State) :
    NextForgetVar (exec i s) (exec i.forgetVar s.forgetVar) := by
  cases i with
  | stat => exact execStat_forgetVar s
  | init algid nnreq var => exact execInit_forgetVar algid nnreq var s
  | add n => exact execAdd_forgetVar n s
  | finish => exact finishing_forgetVar (fun _ => rfl) s
  | tobin => exact finishing_forgetVar (fun _ => rfl) s
  | tohex => exact finishing_forgetVar (fun _ => rfl) s
  | _ => cases host

/-- With no selector waiting, a step commutes with clearing the variant. -/
theorem step_forgetVar {s : State} (sel : s.sel = none) : NextForgetVar (step s) (step s.forgetVar) := by
  have inbox_eq {tx : Transaction} {rest : List Transaction} (inbox : s.inbox = tx :: rest) :
      s.forgetVar.inbox = tx.forgetVar :: rest.map (·.forgetVar) := congrArg (List.map Transaction.forgetVar) inbox
  rcases step_cases s with ⟨-, inbox, e⟩ | ⟨tx, rest, c, -, inbox, decoded, e⟩ |
    ⟨tx, rest, i, -, inbox, decoded, host, e⟩ | ⟨v, _, hv, -, -⟩ | ⟨v, _, hv, -, -, -⟩
  · exact ⟨s, e, by simp [step, fetch, State.forgetVar, sel, inbox]⟩
  · have decoded' : decodeCommand tx.forgetVar.cw = .error c := by
      rw [decodeCommand_forgetVar, decoded]
      rfl
    rw [e, step_of_illegalCommand (s := s.forgetVar) sel (inbox_eq inbox) decoded', reject_forgetVar]
    exact ⟨_, rfl, rfl⟩
  · have decoded' : decodeCommand tx.forgetVar.cw = .ok i.forgetVar := by
      rw [decodeCommand_forgetVar, decoded]
      rfl
    rw [e, step_of_command (s := s.forgetVar) sel (inbox_eq inbox) decoded']
    exact exec_forgetVar host s
  · cases hv.symm.trans sel
  · cases hv.symm.trans sel

/-- Settles O41: both steps commute with clearing the variant, and they start from one cleared state. -/
theorem variantIsInvisible : Obligations.VariantIsInvisible := by
  intro s t s' t' same sel hs ht
  have sel' : t.sel = none := (congrArg State.sel same).symm.trans sel
  obtain ⟨u, eu, fu⟩ := step_forgetVar sel
  obtain ⟨v, ev, fv⟩ := step_forgetVar sel'
  obtain rfl := Host.Outcome.next.inj (eu.symm.trans hs)
  obtain rfl := Host.Outcome.next.inj (ev.symm.trans ht)
  exact Host.Outcome.next.inj (fu.symm.trans (same ▸ fv))

end Sys2Proof.Machine


namespace Sys2Proof.Machine

/-! # INIT, STAT and the remaining rules of ADD and the finishing commands (40_engine R120 to R127)

## INIT and STAT -/

/-- INIT on a legal request is accepted (40_engine R120). -/
theorem exec_init_legal {a : Alg} {nnreq : BitVec 7} {s : State} (legal : a.nnLegal nnreq = true)
    (payload : s.payload = []) (var : BitVec 1) :
    exec (.init a.id nnreq var) s = .next (accept [] (initRegs a (a.digestLen nnreq) var s)) := by
  have requested : requestedAlg a.id nnreq = some a := requestedAlg_some.mpr ⟨ofId_id a, legal⟩
  simp [exec, execInit, payload, requested]

/-- INIT's state registers: the IV, with BLAKE2's parameter word in H[0] (40_engine R120, 46_blake2 R311). -/
theorem hReg_initH (a : Alg) (nn : BitVec 7) {i : Nat} (hi : i < 10) :
    hReg (a.initH nn) i =
      (if i < a.desc.sw then a.desc.iv.getD i 0 else 0) ^^^
      (if i = 0 ∧ (a = .blake2s ∨ a = .blake2b) then 0x01010000#64 ^^^ nn.setWidth 64 else 0) := by
  simp only [Alg.initH, hReg_tab, hi, if_true, scheme_blake_iff]
  by_cases parameter : i = 0 ∧ (a = .blake2s ∨ a = .blake2b)
  · rw [if_pos parameter, if_pos parameter]
  · rw [if_neg parameter, if_neg parameter]
    exact BitVec.xor_zero.symm

/-- Settles O24: the request is accepted, and the registers are those INIT loads. -/
theorem initLoadsEveryRegister : Obligations.InitLoadsEveryRegister := by
  intro a nnreq var s legal payload
  refine ⟨_, exec_init_legal legal payload var, accept_answered [] rfl rfl rfl rfl rfl, rfl, rfl, rfl,
    fun i hi => hReg_initH a _ hi, rfl, rfl, fun i hi => ?pbuf, rfl, fun i hi => ?dig, rfl, rfl⟩
  case pbuf => exact (tab_getD 128 _ i _).trans (if_pos hi)
  case dig => exact (tab_getD 64 _ i _).trans (if_pos hi)

/-- An INIT that leaves OK in LASTERR loaded the registers of its operands alone (40_engine R120, R129). -/
theorem exec_init_ok {algid : BitVec 8} {nnreq : BitVec 7} {var : BitVec 1} {s t : State}
    (h : exec (.init algid nnreq var) s = .next t) (ok : t.lasterr = .ok) :
    ∃ a, requestedAlg algid nnreq = some a ∧ t = accept [] (initRegs a (a.digestLen nnreq) var s) := by
  rcases execInit_cases algid nnreq var s with ⟨-, e⟩ | ⟨-, -, e⟩ | ⟨-, a, requested, e⟩
  all_goals obtain rfl := Host.Outcome.next.inj (e.symm.trans h)
  · cases ok
  · cases ok
  · exact ⟨a, requested, rfl⟩

/-- Settles O26: both loaded the registers of one algorithm, and none of them depends on the state before. -/
theorem initForgetsTheOldComputation : Obligations.InitForgetsTheOldComputation := by
  intro algid nnreq var s s' t t' h h' ok ok'
  obtain ⟨a, requested, rfl⟩ := exec_init_ok h ok
  obtain ⟨b, requested', rfl⟩ := exec_init_ok h' ok'
  obtain rfl := Option.some.inj (requested.symm.trans requested')
  rfl

/-- Settles O29: the empty message has no block, so COUNT and PLEN are 0 and H is as INIT loads it. -/
theorem initAbsorbsTheEmptyMessage : Obligations.InitAbsorbsTheEmptyMessage := by
  intro a nnreq var s legal payload
  have noBlock : a.blocksAbsorbed ([] : List Byte).length = 0 := by simp [Alg.blocksAbsorbed]
  refine ⟨_, exec_init_legal legal payload var, rfl, rfl, rfl, rfl, Nat.zero_le _, ?_, ?_, ?_, ?_⟩
  all_goals rw [noBlock]
  · simp
  · simp
  · simp [State.pending]
  · rfl

/-- Settles O27: STAT with no payload is answered from the registers as they are. -/
theorem statReadsTheStatusWord : Obligations.StatReadsTheStatusWord := by
  intro s payload
  have read := ((execStat_cases s).resolve_left fun ⟨nonempty, _⟩ => nonempty payload).2
  exact ⟨_, read, ⟨rfl, rfl, rfl, rfl, rfl⟩, rfl, rfl⟩

/-! ## ADD -/

/-- Settles O31: a rejection writes LASTERR alone, and ADD's loop only the streaming registers. -/
theorem addFrame : Obligations.AddFrame := by
  intro n s t h
  rcases execAdd_cases n s with ⟨c, e, -⟩ | ⟨a, u, -, -, -, -, -, -, frame, e⟩
  all_goals obtain rfl := Host.Outcome.next.inj (e.symm.trans h)
  · exact ⟨rfl, rfl, rfl, rfl, rfl, rfl, rfl, rfl, rfl, rfl⟩
  · exact ⟨frame.alg, frame.nn, frame.variant, frame.fin, frame.dig, frame.fatal, frame.sel, frame.ports, frame.draws,
      congrArg List.tail frame.inbox⟩

/-- Settles O32: ADD's loop over no byte is the state itself. -/
theorem emptyAddChangesOnlyLastErr : Obligations.EmptyAddChangesOnlyLastErr := by
  intro s payload fatal alg fin limit
  obtain ⟨a, alg⟩ := Option.ne_none_iff_exists'.mp alg
  have accepted : AddAccepted a 0 s s :=
    ⟨by rw [payload]; rfl, fatal, alg, fin, limit, by rw [payload]; rfl⟩
  exact ⟨_, accepted.exec_eq, accept_answered [] rfl rfl rfl rfl rfl, rfl⟩

/-! ## FINISH, TOBIN and TOHEX -/

/-- The three finishing commands are one command that returns different data (40_engine R124 to R126). -/
theorem exec_finishing {i : Instr} (hi : i = .finish ∨ i = .tobin ∨ i = .tohex) :
    ∃ data : State → List Byte, ∀ s, exec i s = finishing data s := by
  rcases hi with rfl | rfl | rfl
  · exact ⟨_, fun _ => rfl⟩
  · exact ⟨_, fun _ => rfl⟩
  · exact ⟨_, fun _ => rfl⟩

/-- Settles O39: a rejection and a malformed tail keep them, and so does FINISH's body. -/
theorem finishingFrame : Obligations.FinishingFrame := by
  intro i s t hi h
  obtain ⟨data, exec_eq⟩ := exec_finishing hi
  rw [exec_eq] at h
  rcases finishing_cases data s with ⟨c, e, -⟩ | ⟨a, u, -, -, -, body, e⟩ | ⟨a, -, -, -, -, e⟩
  all_goals obtain rfl := Host.Outcome.next.inj (e.symm.trans h)
  · exact ⟨rfl, rfl, rfl, rfl, rfl, rfl, rfl⟩
  · obtain ⟨alg, nn, variant, -, -, -, inbox, -, sel, ports, draws⟩ := finishBody_frame body
    exact ⟨alg, nn, variant, sel, ports, draws, congrArg List.tail inbox⟩
  · exact ⟨rfl, rfl, rfl, rfl, rfl, rfl, rfl⟩

/-- Settles O37: with FIN = 1 FINISH's body does nothing, so the data are read from the state as it is. -/
theorem finishingIsIdempotent : Obligations.FinishingIsIdempotent := by
  intro s fin fatal alg payload
  obtain ⟨a, alg⟩ := Option.ne_none_iff_exists'.mp alg
  have finishes (data : State → List Byte) : ∃ t, finishing data s = .next t ∧ Answered .ok (data s) s t ∧
      t.regs = { s.regs with lasterr := .ok } :=
    ⟨_, finishing_eq payload fatal alg (finishBody_finished fin) data, accept_answered _ rfl rfl rfl rfl rfl, rfl⟩
  exact ⟨finishes _, finishes _, finishes _⟩

/-- More pending bytes than a BLAKE block are no whole number of blocks: they are between 64 and 128
(41_padding R164, notes/assumptions/18.md). -/
theorem tailOf_malformed {a : Alg} {s : State} (blake : a.desc.scheme = .blake)
    (long : a.desc.bs.bytes < s.plen.toNat) (inPbuf : s.plen.toNat < 128) :
    (tailOf a s).length % a.desc.bs.bytes ≠ 0 := by
  have pending : s.pending.length = s.plen.toNat := by rw [pending_length]; omega
  have tail : (tailOf a s).length = s.plen.toNat + (a.desc.bs.bytes - s.plen.toNat) := by
    simp only [tailOf, blake, padBlake, List.length_append, zeros_length, pending]
  rcases a.desc.bs.bytes_cases with bs | bs <;> rw [bs] at long tail ⊢ <;> omega

/-- Settles O23: FINISH's body finds the malformed tail, and the failure keeps the registers. -/
theorem malformedTailIsFatal : Obligations.MalformedTailIsFatal := by
  intro i s a hi payload fatal fin alg blake long inPbuf
  obtain ⟨data, exec_eq⟩ := exec_finishing hi
  have malformed := tailOf_malformed blake long inPbuf
  have body : finishBody a s = .error .padInternal := by
    rcases finishBody_cases a s with ⟨fin', -⟩ | ⟨-, -, whole, -⟩ | ⟨-, -, -, -, e⟩
    · cases fin.symm.trans fin'
    · exact absurd whole malformed
    · exact e
  have admitted : checkSelected 0 s = .ok a :=
    checkSelected_ok.mpr ⟨by rw [payload]; rfl, fatal, alg⟩
  refine ⟨failFatal .padInternal s, ?_, failFatal_padInternal_answered s, rfl⟩
  simp only [exec_eq, finishing, admitted, body]

/-! ## TOHEX's text -/

theorem hexText_cons (b : Byte) (l : List Byte) :
    hexText (b :: l) = hexChar (b >>> 4).toNat :: hexChar (b &&& 0xF).toNat :: hexText l := rfl

/-- HEXCH(n) by its table (40_engine R126). -/
theorem hexChar_eq_getD : ∀ {n : Nat}, n < 16 → hexChar n = [0x30, 0x31, 0x32, 0x33, 0x34, 0x35, 0x36, 0x37, 0x38,
    0x39, 0x61, 0x62, 0x63, 0x64, 0x65, 0x66].getD n 0 := by
  decide

theorem highNibble_toNat (b : Byte) : (b >>> 4).toNat = b.toNat / 16 := by
  rw [BitVec.toNat_ushiftRight, Nat.shiftRight_eq_div_pow]

theorem lowNibble_toNat (b : Byte) : (b &&& 0xF).toNat = b.toNat % 16 := by
  rw [BitVec.toNat_and]
  exact Nat.and_two_pow_sub_one_eq_mod b.toNat 4

/-- The two characters of byte `i` are its nibbles' digits. -/
theorem hexText_getElem? {l : List Byte} {i : Nat} {b : Byte} (h : l[i]? = some b) :
    (hexText l)[2 * i]? = some (hexChar (b.toNat / 16)) ∧
    (hexText l)[2 * i + 1]? = some (hexChar (b.toNat % 16)) := by
  induction l generalizing i with
  | nil => simp at h
  | cons c l ih =>
    rw [hexText_cons, highNibble_toNat, lowNibble_toNat]
    cases i with
    | zero =>
      obtain rfl : c = b := by simpa using h
      exact ⟨rfl, rfl⟩
    | succ i => exact ih (by simpa using h)

/-- Settles O38: each byte gives its two nibbles' digits, and these are those of the table. -/
theorem hexTextFormat : Obligations.HexTextFormat := by
  intro l
  refine ⟨hexText_length l, fun i _ b h => ?_⟩
  have lt := b.isLt
  rw [← hexChar_eq_getD (by omega), ← hexChar_eq_getD (by omega)]
  exact hexText_getElem? h

end Sys2Proof.Machine


namespace Sys2Proof.Machine

/-! # The padding controller (41_padding R160 to R165)

## The number of blocks of the final tail -/

/-- The zero bytes of a Merkle–Damgård tail fill the least number of blocks that hold the `n` pending bytes and the
`k` bytes that follow them (R160, R161). -/
theorem mdTail_length_eq {bs n k c : Nat} (enough : n + k ≤ c * bs) (least : c * bs < n + k + bs) :
    n + k + (bs - (n + k) % bs) % bs = c * bs := by
  have positive : 0 < bs := by omega
  have fill : (bs - (n + k) % bs) % bs < bs := Nat.mod_lt _ positive
  obtain ⟨q, whole⟩ := Nat.dvd_of_mod_eq_zero (mdTail_length_mod bs n k positive)
  rw [Nat.mul_comm] at whole
  have upper : q < c + 1 := Nat.lt_of_mul_lt_mul_right (a := bs) (by rw [Nat.succ_mul]; omega)
  have lower : c < q + 1 := Nat.lt_of_mul_lt_mul_right (a := bs) (by rw [Nat.succ_mul]; omega)
  rw [whole, show q = c by omega]

theorem padMdLe_length_eq {bs : BlockSize} {buf : List Byte} {c : Nat} (len : Nat)
    (enough : buf.length + 9 ≤ c * bs.bytes) (least : c * bs.bytes < buf.length + 9 + bs.bytes) :
    (padMdLe bs buf len).length = c * bs.bytes :=
  (padMdLe_length bs buf len).trans (mdTail_length_eq enough least)

theorem padMdBe_length_eq {bs : BlockSize} {buf : List Byte} {c : Nat} (len : Nat)
    (enough : buf.length + (1 + bs.bytes / 8) ≤ c * bs.bytes)
    (least : c * bs.bytes < buf.length + (1 + bs.bytes / 8) + bs.bytes) :
    (padMdBe bs buf len).length = c * bs.bytes :=
  (padMdBe_length bs buf len).trans (mdTail_length_eq enough least)

/-- Settles O45: the marker and the length field fit into the block of the pending bytes, or need the next one. -/
theorem tailBlockCounts : Obligations.TailBlockCounts := by
  intro bs buf len
  have sizes := bs.bytes_cases
  refine ⟨fun room => ?_, fun full pending => ?_, fun room => ?_, fun full pending => ?_, padBlake_length bs buf⟩
  · simpa using padMdLe_length_eq (c := 1) len (by omega) (by omega)
  · exact padMdLe_length_eq len (by omega) (by omega)
  · simpa using padMdBe_length_eq (c := 1) len (by omega) (by omega)
  · exact padMdBe_length_eq len (by omega) (by omega)

/-! ## The length field -/

theorem padMdLe_drop_eq_lengthField (bs : BlockSize) (buf : List Byte) (len : Nat) :
    (padMdLe bs buf len).drop ((padMdLe bs buf len).length - 8) = bytesLe (8 * len) 8 := by
  have field : bytesLe (8 * len) 8 <:+ padMdLe bs buf len := List.suffix_append _ _
  simpa using (List.suffix_iff_eq_drop.mp field).symm

theorem padMdBe_drop_eq_lengthField (bs : BlockSize) (buf : List Byte) (len : Nat) :
    (padMdBe bs buf len).drop ((padMdBe bs buf len).length - bs.bytes / 8) = bytesBe (8 * len) (bs.bytes / 8) := by
  have field : bytesBe (8 * len) (bs.bytes / 8) <:+ padMdBe bs buf len := List.suffix_append _ _
  simpa using (List.suffix_iff_eq_drop.mp field).symm

/-- A field of 8 bytes or more holds the bit length of every message the engine accepts (R165). -/
theorem leNat_bytesLe_bitLength {len n : Nat} (limit : len ≤ Config.maxMsgBytes) (wide : 8 ≤ n) :
    leNat (bytesLe (8 * len) n) = 8 * len := by
  have fits : 8 * len < 256 ^ 8 := by
    have hmax : Config.maxMsgBytes = 2 ^ 61 - 1 := rfl
    omega
  rw [leNat_bytesLe, Nat.mod_eq_of_lt (fits.trans_le (Nat.pow_le_pow_right (by decide) wide))]

/-- Settles O46: the field is the tail's last bytes, and it is wide enough for the bit length. -/
theorem lengthFieldIsExact : Obligations.LengthFieldIsExact := by
  intro bs buf len limit
  rw [padMdLe_drop_eq_lengthField, padMdBe_drop_eq_lengthField, bytesBe, List.reverse_reverse]
  have wide : 8 ≤ bs.bytes / 8 := by have := bs.bytes_cases; omega
  exact ⟨leNat_bytesLe_bitLength limit le_rfl, leNat_bytesLe_bitLength limit wide⟩

/-! ## The padding operations by themselves -/

/-- A padding operation by itself writes the tail wire and clears its selector. -/
theorem padOp_eq (tail : List Byte) (s : State) :
    padOp tail s = .next { s with sel := none, ports := { s.ports with tail := tail } } := rfl

/-- Settles O42: PAD_MD_LE puts R160's tail on the wire. -/
theorem padMdLeTail : Obligations.PadMdLeTail := fun s =>
  padOp_eq (padMdLe s.ports.bs s.ports.buf s.ports.len.toNat) s

/-- Settles O43: PAD_MD_BE puts R161's tail on the wire. -/
theorem padMdBeTail : Obligations.PadMdBeTail := fun s =>
  padOp_eq (padMdBe s.ports.bs s.ports.buf s.ports.len.toNat) s

/-- Settles O44: PAD_BLAKE puts R162's tail on the wire. -/
theorem padBlakeTail : Obligations.PadBlakeTail := fun s =>
  padOp_eq (padBlake s.ports.bs s.ports.buf) s

end Sys2Proof.Machine


namespace Sys2Proof.Machine

/-! # A compression unit by itself (40_engine R123, 20_memory R63) -/

open Sys2Proof.Claims

/-- Block decoding gives the little-endian words of the block wires (R63). -/
theorem blockWords_eq_xLe32 (s : State) {j : Nat} (hj : j < 16) :
    (blockWords .little 32 s.ports.blk.toList)[j] = xLe32 s j := by
  rw [blockWords_getElem, xLe32, Nat.mul_comm]
  rfl

theorem readWords_eq_h32 (s : State) {n i : Nat} (hi : i < n) : (readWords 32 n s.h)[i] = h32 s i :=
  readWords_getElem 32 n s.h i hi

/-- One more step of a unit's loop over the step numbers. -/
theorem foldl_range_succ {α : Type} (f : α → Nat → α) (a : α) (n : Nat) :
    (List.range (n + 1)).foldl f a = f ((List.range n).foldl f a) n := by
  rw [List.range_succ, List.foldl_append, List.foldl_cons, List.foldl_nil]

/-- A unit that writes `v` to H and is done has the words of `v` as its result. -/
theorem unitDone_writeWords_unitResult {w n : Nat} (s : State) {v : Vector (BitVec w) n} {r : Nat → BitVec w}
    (hn : n ≤ 10) (words : ∀ (i : Nat) (hi : i < n), v[i] = r i) :
    UnitResult n r s (unitDone { s with h := writeWords s.h v }) := by
  refine ⟨rfl, fun i hi => ?_, fun i hi hni => ?_⟩
  · rw [unitDone_h, hReg_writeWords _ _ _ (hi.trans_le hn), if_pos hi, vector_getD v 0 i hi, words i hi]
  · rw [unitDone_h, hReg_writeWords _ _ _ hi, if_neg (Nat.not_lt.mpr hni)]

/-! # The MD5 compression unit (42_md5 R191 to R198) -/

/-- R191's function of step `i`: each of the four serves 16 steps. -/
theorem md5Fun_of_step {i : Nat} (hi : i < 64) (b c d : Word32) :
    md5Fun (i / 16) b c d =
      if i < 16 then (b &&& c) ||| (~~~b &&& d)
      else if i < 32 then (b &&& d) ||| (c &&& ~~~d)
      else if i < 48 then b ^^^ c ^^^ d
      else c ^^^ (b ||| ~~~d) := by
  split_ifs
  · rw [show i / 16 = 0 by omega]; rfl
  · rw [show i / 16 = 1 by omega]; rfl
  · rw [show i / 16 = 2 by omega]; rfl
  · rw [show i / 16 = 3 by omega]; rfl

/-- R193's amounts are in the range for which R9 defines the rotation. -/
theorem md5S_lt : ∀ i < 64, Rom.md5S.getD i 0 < 32 := by decide

/-- The working words before step `i` of the run on the state registers and the block wires of `s` (R196). -/
def md5Trace (s : State) (i : Nat) : Md5Work :=
  (List.range i).foldl (md5Step (blockWords .little 32 s.ports.blk.toList)) ⟨h32 s 0, h32 s 1, h32 s 2, h32 s 3⟩

theorem md5Trace_succ (s : State) (i : Nat) :
    md5Trace s (i + 1) = md5Step (blockWords .little 32 s.ports.blk.toList) (md5Trace s i) i :=
  foldl_range_succ ..

theorem md5Steps_eq_md5Trace (s : State) :
    md5Steps (blockWords .little 32 s.ports.blk.toList) ⟨h32 s 0, h32 s 1, h32 s 2, h32 s 3⟩ = md5Trace s 64 := rfl

/-- The feed-forward, word by word (R198). -/
theorem md5Block_getElem (h : Vector Word32 4) (x : Vector Word32 16) (i : Nat) (hi : i < 4) :
    (md5Block h x)[i] =
      let w := md5Steps x ⟨h[0], h[1], h[2], h[3]⟩
      h[i] + [w.a, w.b, w.c, w.d].getD i 0 := by
  match i, hi with
  | 0, _ | 1, _ | 2, _ | 3, _ => rfl

/-- Settles O47: the sequences are the working words before each step, and the unit writes their feed-forward. -/
theorem md5CompressSteps : Obligations.Md5CompressSteps := by
  intro s
  refine ⟨_, fun i => (md5Trace s i).a, fun i => (md5Trace s i).b, fun i => (md5Trace s i).c,
    fun i => (md5Trace s i).d, rfl, rfl, rfl, rfl, rfl, fun i hi => ?_,
    unitDone_writeWords_unitResult s (by decide) fun i hi => ?_⟩
  · have word := blockWords_eq_xLe32 s (Rom.md5Idx.getD i 0).isLt
    simp only [md5Trace_succ, md5Step, md5Fun_of_step hi, rotl_eq_rotateLeft _ _ (md5S_lt i hi),
      Fin.getElem_fin, word, and_self]
  · simp only [md5Block_getElem _ _ i hi, readWords_eq_h32, md5Steps_eq_md5Trace]

end Sys2Proof.Machine


namespace Sys2Proof.Machine

/-! # The RIPEMD compression units (43_ripemd R210 to R225)

A run of a unit is the sequence of its two lines before each step; a step of the model's pair is Pair4 or Pair5
of the rules, and after a round's last step the wide units' exchange. -/

open Sys2Proof.Claims

/-! ## The two lines' steps (R211 to R218) -/

theorem rmdFun_eq_rmdF (n : Nat) (x y z : Word32) : rmdFun n x y z = rmdF n x y z := by
  match n with
  | 0 | 1 | 2 | 3 | 4 => rfl
  | n + 5 => simp [rmdFun, rmdF]

/-- R215's amounts are in the range for which R9 defines the rotation. -/
theorem rmdSL_lt : ∀ j < 80, Rom.rmdSL.getD j 0 < 32 := by decide

/-- R216's amounts are in the range for which R9 defines the rotation. -/
theorem rmdSR_lt : ∀ j < 80, Rom.rmdSR.getD j 0 < 32 := by decide

section Steps

variable {n : Nat} (hn : n < 32) (f : Nat) (x k : Word32)

include hn

theorem step4_rmdStep4 (l : Line4) : Step4 f x k n l (rmdStep4 f x k n l) := by
  simp only [Step4, rmdStep4, rmdFun_eq_rmdF, rotl_eq_rotateLeft _ n hn, and_self]

theorem step5_rmdStep5 (l : Line5) : Step5 f x k n l (rmdStep5 f x k n l) := by
  simp only [Step5, rmdStep5, rmdFun_eq_rmdF, rotl_eq_rotateLeft _ n hn,
    rotl_eq_rotateLeft l.C 10 (by decide), and_self]

end Steps

/-- The 16 words of the block wires (R210). -/
def rmdWords (s : State) : Vector Word32 16 := blockWords .little 32 s.ports.blk.toList

theorem rmdWords_getElem (s : State) (j : Fin 16) : (rmdWords s)[j] = xLe32 s j := blockWords_eq_xLe32 s j.isLt

theorem pair4_rmdPair4 (s : State) (p : Line4 × Line4) {j : Nat} (hj : j < 64) :
    Pair4 s j p.1 p.2 (rmdPair4 (rmdWords s) p j).1 (rmdPair4 (rmdWords s) p j).2 := by
  simp only [Pair4, rmdPair4, rmdWords_getElem]
  exact ⟨step4_rmdStep4 (rmdSL_lt j (by omega)) .., step4_rmdStep4 (rmdSR_lt j (by omega)) ..⟩

theorem pair5_rmdPair5 (s : State) (p : Line5 × Line5) {j : Nat} (hj : j < 80) :
    Pair5 s j p.1 p.2 (rmdPair5 (rmdWords s) p j).1 (rmdPair5 (rmdWords s) p j).2 := by
  simp only [Pair5, rmdPair5, rmdWords_getElem]
  exact ⟨step5_rmdStep5 (rmdSL_lt j hj) .., step5_rmdStep5 (rmdSR_lt j hj) ..⟩

/-! ## The exchanges of the wide units (R221) -/

theorem exchange256_rmdSwap256 (g : Nat) (p : Line4 × Line4) :
    Exchange256 g p.1 p.2 (rmdSwap256 g p).1 (rmdSwap256 g p).2 := by
  refine ⟨?_, ?_, ?_, ?_⟩ <;> rintro rfl <;> exact ⟨rfl, rfl⟩

theorem exchange320_rmdSwap320 (g : Nat) (p : Line5 × Line5) :
    Exchange320 g p.1 p.2 (rmdSwap320 g p).1 (rmdSwap320 g p).2 := by
  refine ⟨?_, ?_, ?_, ?_, ?_⟩ <;> rintro rfl <;> exact ⟨rfl, rfl⟩

/-! ## The lines before each step (R222 to R225) -/

/-- The four state words from H[k] on, as a line's start. -/
def startLine4 (s : State) (k : Nat) : Line4 := ⟨h32 s k, h32 s (k + 1), h32 s (k + 2), h32 s (k + 3)⟩

/-- The five state words from H[k] on, as a line's start. -/
def startLine5 (s : State) (k : Nat) : Line5 :=
  ⟨h32 s k, h32 s (k + 1), h32 s (k + 2), h32 s (k + 3), h32 s (k + 4)⟩

/-- The lines of RIPEMD-128 before step `j`. -/
def rmd128Lines (s : State) (j : Nat) : Line4 × Line4 :=
  (List.range j).foldl (rmdPair4 (rmdWords s)) (startLine4 s 0, startLine4 s 0)

/-- The lines of RIPEMD-160 before step `j`. -/
def rmd160Lines (s : State) (j : Nat) : Line5 × Line5 :=
  (List.range j).foldl (rmdPair5 (rmdWords s)) (startLine5 s 0, startLine5 s 0)

/-- The lines of RIPEMD-256 before step `j`. -/
def rmd256Lines (s : State) (j : Nat) : Line4 × Line4 :=
  (List.range j).foldl (rmdPair256 (rmdWords s)) (startLine4 s 0, startLine4 s 4)

/-- The lines of RIPEMD-320 before step `j`. -/
def rmd320Lines (s : State) (j : Nat) : Line5 × Line5 :=
  (List.range j).foldl (rmdPair320 (rmdWords s)) (startLine5 s 0, startLine5 s 5)

theorem rmd128Lines_succ (s : State) (j : Nat) :
    rmd128Lines s (j + 1) = rmdPair4 (rmdWords s) (rmd128Lines s j) j := foldl_range_succ ..

theorem rmd160Lines_succ (s : State) (j : Nat) :
    rmd160Lines s (j + 1) = rmdPair5 (rmdWords s) (rmd160Lines s j) j := foldl_range_succ ..

theorem rmd256Lines_succ (s : State) (j : Nat) :
    rmd256Lines s (j + 1) = rmdPair256 (rmdWords s) (rmd256Lines s j) j := foldl_range_succ ..

theorem rmd320Lines_succ (s : State) (j : Nat) :
    rmd320Lines s (j + 1) = rmdPair320 (rmdWords s) (rmd320Lines s j) j := foldl_range_succ ..

/-! ## What each unit writes, word by word (R220, R221) -/

theorem rmd128Block_getElem (s : State) {i : Nat} (hi : i < 4) :
    (rmd128Block (readWords 32 4 s.h) (rmdWords s))[i] =
      let (l, r) := rmd128Lines s 64
      [h32 s 1 + l.C + r.D, h32 s 2 + l.D + r.A, h32 s 3 + l.A + r.B, h32 s 0 + l.B + r.C].getD i 0 := by
  match i, hi with
  | 0, _ | 1, _ | 2, _ | 3, _ => rfl

theorem rmd160Block_getElem (s : State) {i : Nat} (hi : i < 5) :
    (rmd160Block (readWords 32 5 s.h) (rmdWords s))[i] =
      let (l, r) := rmd160Lines s 80
      [h32 s 1 + l.C + r.D, h32 s 2 + l.D + r.E, h32 s 3 + l.E + r.A, h32 s 4 + l.A + r.B,
        h32 s 0 + l.B + r.C].getD i 0 := by
  match i, hi with
  | 0, _ | 1, _ | 2, _ | 3, _ | 4, _ => rfl

theorem rmd256Block_getElem (s : State) {i : Nat} (hi : i < 8) :
    (rmd256Block (readWords 32 8 s.h) (rmdWords s))[i] =
      let (l, r) := rmd256Lines s 64
      h32 s i + [l.A, l.B, l.C, l.D, r.A, r.B, r.C, r.D].getD i 0 := by
  match i, hi with
  | 0, _ | 1, _ | 2, _ | 3, _ | 4, _ | 5, _ | 6, _ | 7, _ => rfl

theorem rmd320Block_getElem (s : State) {i : Nat} (hi : i < 10) :
    (rmd320Block (readWords 32 10 s.h) (rmdWords s))[i] =
      let (l, r) := rmd320Lines s 80
      h32 s i + [l.A, l.B, l.C, l.D, l.E, r.A, r.B, r.C, r.D, r.E].getD i 0 := by
  match i, hi with
  | 0, _ | 1, _ | 2, _ | 3, _ | 4, _ | 5, _ | 6, _ | 7, _ | 8, _ | 9, _ => rfl

/-! ## The units -/

/-- Settles O48: the sequences are the two lines before each step, and the unit writes R220's combination. -/
theorem rmd128CompressSteps : Obligations.Rmd128CompressSteps := by
  intro s
  refine ⟨_, fun j => (rmd128Lines s j).1, fun j => (rmd128Lines s j).2, rfl, rfl, rfl, fun j hj => ?_,
    unitDone_writeWords_unitResult s (by decide) fun i hi => rmd128Block_getElem s hi⟩
  simpa only [rmd128Lines_succ] using pair4_rmdPair4 s (rmd128Lines s j) hj

/-- Settles O49: as O48, with 80 steps of the 5-word lines. -/
theorem rmd160CompressSteps : Obligations.Rmd160CompressSteps := by
  intro s
  refine ⟨_, fun j => (rmd160Lines s j).1, fun j => (rmd160Lines s j).2, rfl, rfl, rfl, fun j hj => ?_,
    unitDone_writeWords_unitResult s (by decide) fun i hi => rmd160Block_getElem s hi⟩
  simpa only [rmd160Lines_succ] using pair5_rmdPair5 s (rmd160Lines s j) hj

/-- Settles O50: the primed sequences are the lines after each step and before the exchange. -/
theorem rmd256CompressSteps : Obligations.Rmd256CompressSteps := by
  intro s
  refine ⟨_, fun j => (rmd256Lines s j).1, fun j => (rmd256Lines s j).2,
    fun j => (rmdPair4 (rmdWords s) (rmd256Lines s j) j).1,
    fun j => (rmdPair4 (rmdWords s) (rmd256Lines s j) j).2, rfl, rfl, rfl,
    fun j hj => ⟨pair4_rmdPair4 s _ hj, fun last => ?_, fun last => ?_⟩,
    unitDone_writeWords_unitResult s (by decide) fun i hi => rmd256Block_getElem s hi⟩
  · simpa only [rmd256Lines_succ, rmdPair256, if_pos last] using exchange256_rmdSwap256 ..
  · simp only [rmd256Lines_succ, rmdPair256, if_neg last, and_self]

/-- Settles O51: as O50, with 80 steps of the 5-word lines. -/
theorem rmd320CompressSteps : Obligations.Rmd320CompressSteps := by
  intro s
  refine ⟨_, fun j => (rmd320Lines s j).1, fun j => (rmd320Lines s j).2,
    fun j => (rmdPair5 (rmdWords s) (rmd320Lines s j) j).1,
    fun j => (rmdPair5 (rmdWords s) (rmd320Lines s j) j).2, rfl, rfl, rfl,
    fun j hj => ⟨pair5_rmdPair5 s _ hj, fun last => ?_, fun last => ?_⟩,
    unitDone_writeWords_unitResult s (by decide) fun i hi => rmd320Block_getElem s hi⟩
  · simpa only [rmd320Lines_succ, rmdPair320, if_pos last] using exchange320_rmdSwap320 ..
  · simp only [rmd320Lines_succ, rmdPair320, if_neg last, and_self]

end Sys2Proof.Machine


namespace Sys2Proof.Machine

/-! # The SHA-1 compression unit (44_sha1 R250 to R254) -/

open Sys2Proof.Claims

/-- Block decoding gives the big-endian words of the block wires (R63). -/
theorem blockWords_eq_xBe32 (s : State) {j : Nat} (hj : j < 16) :
    (blockWords .big 32 s.ports.blk.toList)[j] = xBe32 s j := by
  rw [blockWords_getElem, xBe32, Nat.mul_comm]
  rfl

/-! ## A schedule that grows newest first (R251) -/

/-- `n` more words on a schedule kept newest first, each computed by `next` from all the words before it. -/
def growWords {α : Type} (next : List α → α) (n : Nat) (l : List α) : List α := (fun l => next l :: l)^[n] l

section Grow

variable {α : Type} (next : List α → α)

theorem growWords_succ (n : Nat) (l : List α) : growWords next (n + 1) l = growWords next n (next l :: l) := rfl

theorem growWords_length (n : Nat) (l : List α) : (growWords next n l).length = l.length + n := by
  induction n generalizing l with
  | zero => rfl
  | succ n ih => rw [growWords_succ, ih, List.length_cons]; omega

/-- In the order of the steps, the words so far come first. -/
theorem reverse_prefix_growWords (n : Nat) (l : List α) : l.reverse <+: (growWords next n l).reverse := by
  induction n generalizing l with
  | zero => exact List.prefix_rfl
  | succ n ih => exact (List.prefix_append l.reverse [next l]).trans (List.reverse_cons ▸ ih (next l :: l))

/-- In the order of the steps, each new word is `next` of the words before it. -/
theorem growWords_reverse_getD (d : α) {n t : Nat} {l : List α} (old : l.length ≤ t) (new : t < l.length + n) :
    (growWords next n l).reverse.getD t d = next ((growWords next n l).reverse.take t).reverse := by
  induction n generalizing l with
  | zero => omega
  | succ n ih =>
    rw [growWords_succ]
    rcases old.eq_or_lt with rfl | older
    · obtain ⟨later, whole⟩ := reverse_prefix_growWords next n (next l :: l)
      rw [← whole]
      simp [List.getD_eq_getElem?_getD]
    · exact ih older (by rw [List.length_cons]; omega)

end Grow

theorem sha1Extend_eq_growWords (n : Nat) (l : List Word32) : sha1Extend n l = growWords sha1NextWord n l := by
  induction n generalizing l with
  | zero => rfl
  | succ n ih => exact ih _

/-- R251's word `W[t]`. -/
def sha1Word (x : Vector Word32 16) (t : Nat) : Word32 := (sha1Schedule x).getD t 0

theorem sha1Schedule_eq_growWords (x : Vector Word32 16) :
    sha1Schedule x = (growWords sha1NextWord 64 x.toList.reverse).reverse := by
  rw [sha1Schedule, sha1Extend_eq_growWords]

theorem sha1Schedule_length (x : Vector Word32 16) : (sha1Schedule x).length = 80 := by
  simp [sha1Schedule_eq_growWords, growWords_length]

theorem sha1Word_of_lt (x : Vector Word32 16) {t : Nat} (ht : t < 16) : sha1Word x t = x[t] := by
  obtain ⟨later, whole⟩ := reverse_prefix_growWords sha1NextWord 64 x.toList.reverse
  rw [List.reverse_reverse] at whole
  rw [sha1Word, sha1Schedule_eq_growWords, ← whole, List.getD_append _ _ _ _ (by simpa using ht), vector_getD]

/-- The word `k + 1` steps back, read from the words before step `t` newest first. -/
theorem sha1Schedule_take_reverse_getD (x : Vector Word32 16) {k t : Nat} (hk : k < t) (ht : t < 80) :
    ((sha1Schedule x).take t).reverse.getD k 0 = sha1Word x (t - (k + 1)) := by
  have length : ((sha1Schedule x).take t).length = t := by rw [List.length_take, sha1Schedule_length]; omega
  rw [List.getD_reverse k (by omega), length, sha1Word, List.getD_eq_getElem?_getD, List.getD_eq_getElem?_getD,
    List.getElem?_take_of_lt (by omega), Nat.sub_sub, Nat.add_comm]

theorem sha1Word_recurrence (x : Vector Word32 16) {t : Nat} (h16 : 16 ≤ t) (h80 : t < 80) :
    sha1Word x t = (sha1Word x (t - 3) ^^^ sha1Word x (t - 8) ^^^ sha1Word x (t - 14) ^^^
      sha1Word x (t - 16)).rotateLeft 1 := by
  have word : sha1Word x t = sha1NextWord ((sha1Schedule x).take t).reverse := by
    rw [sha1Word, sha1Schedule_eq_growWords]
    exact growWords_reverse_getD sha1NextWord 0 (by simpa using h16) (by simpa using h80)
  have back {k : Nat} (hk : k < 16) := sha1Schedule_take_reverse_getD x (hk.trans_le h16) h80
  rw [word, sha1NextWord, rotl_eq_rotateLeft _ 1 (by decide), back (k := 2) (by decide), back (k := 7) (by decide),
    back (k := 13) (by decide), back (k := 15) (by decide)]

/-! ## The steps (R252, R254) -/

/-- The group of step `t`: each of the four has 20 steps. -/
theorem sha1_group_of_step {t : Nat} (ht : t < 80) :
    t / 20 = if t < 20 then 0 else if t < 40 then 1 else if t < 60 then 2 else 3 := by
  split_ifs <;> omega

/-- R252's function of step `t`. -/
theorem sha1Fun_of_step {t : Nat} (ht : t < 80) (b c d : Word32) :
    sha1Fun t b c d =
      if t < 20 then (b &&& c) ^^^ (~~~b &&& d)
      else if t < 40 then b ^^^ c ^^^ d
      else if t < 60 then (b &&& c) ^^^ (b &&& d) ^^^ (c &&& d)
      else b ^^^ c ^^^ d := by
  rw [sha1Fun, sha1_group_of_step ht]
  split_ifs <;> rfl

/-- R252's constant of step `t`. -/
theorem sha1K_of_step {t : Nat} (ht : t < 80) :
    Rom.sha1K.getD (t / 20) 0 =
      if t < 20 then 0x5a827999 else if t < 40 then 0x6ed9eba1 else if t < 60 then 0x8f1bbcdc else 0xca62c1d6 := by
  rw [sha1_group_of_step ht]
  split_ifs <;> rfl

/-- One more schedule word is one more step. -/
theorem sha1Steps_concat (t : Nat) (ws : List Word32) (w : Word32) (v : Sha1Work) :
    sha1Steps t (ws ++ [w]) v = sha1Step (t + ws.length) w (sha1Steps t ws v) := by
  induction ws generalizing t v with
  | nil => rfl
  | cons w' ws ih =>
    rw [List.cons_append, sha1Steps, ih, sha1Steps, List.length_cons, Nat.add_right_comm, Nat.add_assoc]

/-- The 16 words of the block wires (R250). -/
def sha1BlockWords (s : State) : Vector Word32 16 := blockWords .big 32 s.ports.blk.toList

/-- The working words before step `t` of the run on the state registers and the block wires of `s` (R254). -/
def sha1Trace (s : State) (t : Nat) : Sha1Work :=
  sha1Steps 0 ((sha1Schedule (sha1BlockWords s)).take t) ⟨h32 s 0, h32 s 1, h32 s 2, h32 s 3, h32 s 4⟩

theorem sha1Trace_succ (s : State) {t : Nat} (ht : t < 80) :
    sha1Trace s (t + 1) = sha1Step t (sha1Word (sha1BlockWords s) t) (sha1Trace s t) := by
  have inside : t < (sha1Schedule (sha1BlockWords s)).length := by rw [sha1Schedule_length]; exact ht
  rw [sha1Trace, List.take_succ_eq_append_getElem inside, sha1Steps_concat, List.length_take_of_le inside.le,
    Nat.zero_add, sha1Word, List.getD_eq_getElem _ _ inside, sha1Trace]

theorem sha1Steps_eq_sha1Trace (s : State) :
    sha1Steps 0 (sha1Schedule (sha1BlockWords s)) ⟨h32 s 0, h32 s 1, h32 s 2, h32 s 3, h32 s 4⟩ =
      sha1Trace s 80 := by
  rw [sha1Trace, List.take_of_length_le (sha1Schedule_length _).le]

/-- The feed-forward, word by word (R254). -/
theorem sha1Block_getElem (h : Vector Word32 5) (x : Vector Word32 16) (i : Nat) (hi : i < 5) :
    (sha1Block h x)[i] =
      let w := sha1Steps 0 (sha1Schedule x) ⟨h[0], h[1], h[2], h[3], h[4]⟩
      h[i] + [w.a, w.b, w.c, w.d, w.e].getD i 0 := by
  match i, hi with
  | 0, _ | 1, _ | 2, _ | 3, _ | 4, _ => rfl

/-- Settles O52: the sequences are the schedule's words and the working words before each step, and the unit
writes their feed-forward. -/
theorem sha1CompressSteps : Obligations.Sha1CompressSteps := by
  intro s
  refine ⟨_, sha1Word (sha1BlockWords s), fun i => (sha1Trace s i).a, fun i => (sha1Trace s i).b,
    fun i => (sha1Trace s i).c, fun i => (sha1Trace s i).d, fun i => (sha1Trace s i).e, rfl,
    fun i hi => (sha1Word_of_lt _ hi).trans (blockWords_eq_xBe32 s hi), fun i => sha1Word_recurrence _,
    rfl, rfl, rfl, rfl, rfl, fun i hi => ?_,
    unitDone_writeWords_unitResult (v := sha1Block (readWords 32 5 s.h) (sha1BlockWords s)) s (by decide)
      fun i hi => ?_⟩
  · simp only [sha1Trace_succ s hi, sha1Step, sha1Fun_of_step hi, sha1K_of_step hi,
      rotl_eq_rotateLeft _ 5 (by decide : 5 < 32), rotl_eq_rotateLeft _ 30 (by decide : 30 < 32), and_self]
  · simp only [sha1Block_getElem _ _ i hi, readWords_eq_h32, sha1Steps_eq_sha1Trace]

end Sys2Proof.Machine


namespace Sys2Proof.Machine

/-! # The SHA-2 compression units (45_sha2 R270 to R288) -/

open Sys2Proof.Claims

/-- Block decoding gives the big-endian 64-bit words of the block wires (R63). -/
theorem blockWords_eq_xBe64 (s : State) {j : Nat} (hj : j < 16) :
    (blockWords .big 64 s.ports.blk.toList)[j] = xBe64 s j := by
  rw [blockWords_getElem, xBe64, Nat.mul_comm]
  rfl

theorem readWords_eq_hReg (s : State) {n i : Nat} (hi : i < n) : (readWords 64 n s.h)[i] = hReg s.h i :=
  (readWords_getElem 64 n s.h i hi).trans (BitVec.setWidth_eq _)

/-- The element `k + 1` places before place `t`, read from the first `t` elements newest first. -/
theorem take_reverse_getD {α : Type} {l : List α} (d : α) {k t : Nat} (hk : k < t) (ht : t ≤ l.length) :
    (l.take t).reverse.getD k d = l.getD (t - (k + 1)) d := by
  have length : (l.take t).length = t := List.length_take_of_le ht
  rw [List.getD_reverse k (by omega), length, List.getD_eq_getElem?_getD, List.getD_eq_getElem?_getD,
    List.getElem?_take_of_lt (by omega), Nat.sub_sub, Nat.add_comm]

/-! ## The functions on native words (R271, R287) -/

theorem bigSigma_nativeAlu {w : Nat} {n : Amounts} (hx : n.x < w) (hy : n.y < w) (hz : n.z < w) :
    bigSigma (nativeAlu w) n = fun v : BitVec w => v.rotateRight n.x ^^^ v.rotateRight n.y ^^^ v.rotateRight n.z := by
  funext v
  rw [← rotr_eq_rotateRight v _ hx, ← rotr_eq_rotateRight v _ hy, ← rotr_eq_rotateRight v _ hz]
  rfl

theorem smallSigma_nativeAlu {w : Nat} {n : Amounts} (hx : n.x < w) (hy : n.y < w) :
    smallSigma (nativeAlu w) n = fun v : BitVec w => v.rotateRight n.x ^^^ v.rotateRight n.y ^^^ v >>> n.z := by
  funext v
  rw [← rotr_eq_rotateRight v _ hx, ← rotr_eq_rotateRight v _ hy]
  rfl

section Unit

variable {w : Nat} {p : Sha2Unit w}

/-! ## The schedule (R272, R281) -/

theorem sha2Extend_eq_growWords (n : Nat) (l : List (BitVec w)) :
    sha2Extend p n l = growWords (sha2NextWord p) n l := by
  induction n generalizing l with
  | zero => rfl
  | succ n ih => exact ih _

theorem sha2Schedule_eq_growWords (x : Vector (BitVec w) 16) :
    sha2Schedule p x = (growWords (sha2NextWord p) (p.k.length - 16) x.toList.reverse).reverse := by
  rw [sha2Schedule, sha2Extend_eq_growWords]

theorem sha2Schedule_length (full : 16 ≤ p.k.length) (x : Vector (BitVec w) 16) :
    (sha2Schedule p x).length = p.k.length := by
  rw [sha2Schedule_eq_growWords, List.length_reverse, growWords_length, List.length_reverse, Vector.length_toList]
  omega

/-- The schedule's word `W[t]`. -/
def sha2Word (p : Sha2Unit w) (x : Vector (BitVec w) 16) (t : Nat) : BitVec w := (sha2Schedule p x).getD t 0

theorem sha2Word_of_lt (x : Vector (BitVec w) 16) {t : Nat} (ht : t < 16) : sha2Word p x t = x[t] := by
  obtain ⟨later, whole⟩ := reverse_prefix_growWords (sha2NextWord p) (p.k.length - 16) x.toList.reverse
  rw [List.reverse_reverse] at whole
  rw [sha2Word, sha2Schedule_eq_growWords, ← whole, List.getD_append _ _ _ _ (by simpa using ht), vector_getD]

theorem sha2NextWord_native (native : p.alu = nativeAlu w) (l : List (BitVec w)) :
    sha2NextWord p l = smallSigma p.alu p.smallSigma1 (l.getD 1 0) + l.getD 6 0 +
      smallSigma p.alu p.smallSigma0 (l.getD 14 0) + l.getD 15 0 := by
  rw [sha2NextWord, native]
  rfl

theorem sha2Word_recurrence (native : p.alu = nativeAlu w) (x : Vector (BitVec w) 16) {t : Nat} (h16 : 16 ≤ t)
    (ht : t < p.k.length) :
    sha2Word p x t = smallSigma p.alu p.smallSigma1 (sha2Word p x (t - 2)) + sha2Word p x (t - 7) +
      smallSigma p.alu p.smallSigma0 (sha2Word p x (t - 15)) + sha2Word p x (t - 16) := by
  have length := sha2Schedule_length (h16.trans ht.le) x
  have word : sha2Word p x t = sha2NextWord p ((sha2Schedule p x).take t).reverse := by
    rw [sha2Word, sha2Schedule_eq_growWords]
    exact growWords_reverse_getD (sha2NextWord p) 0 (by simpa using h16) (by simp; omega)
  have back {k : Nat} (hk : k < 16) : ((sha2Schedule p x).take t).reverse.getD k 0 = sha2Word p x (t - (k + 1)) :=
    take_reverse_getD 0 (hk.trans_le h16) (by omega)
  rw [word, sha2NextWord_native native, back (k := 1) (by decide), back (k := 6) (by decide),
    back (k := 14) (by decide), back (k := 15) (by decide)]

/-! ## The steps (R274) -/

theorem sha2Step_native (native : p.alu = nativeAlu w) (u : Sha2Work w) (k wt : BitVec w) :
    sha2Step p u (k, wt) =
      let t1 := u.h + bigSigma p.alu p.bigSigma1 u.e + ((u.e &&& u.f) ^^^ (~~~u.e &&& u.g)) + k + wt
      let t2 := bigSigma p.alu p.bigSigma0 u.a + ((u.a &&& u.b) ^^^ (u.a &&& u.c) ^^^ (u.b &&& u.c))
      ⟨t1 + t2, u.a, u.b, u.c, u.d + t1, u.e, u.f, u.g⟩ := by
  simp only [sha2Step, native]
  rfl

/-- The working words before step `t` (R274). -/
def sha2Trace (p : Sha2Unit w) (h : Vector (BitVec w) 8) (x : Vector (BitVec w) 16) (t : Nat) : Sha2Work w :=
  ((p.k.zip (sha2Schedule p x)).take t).foldl (sha2Step p) ⟨h[0], h[1], h[2], h[3], h[4], h[5], h[6], h[7]⟩

theorem sha2Trace_succ (full : 16 ≤ p.k.length) (h : Vector (BitVec w) 8) (x : Vector (BitVec w) 16) {t : Nat}
    (ht : t < p.k.length) :
    sha2Trace p h x (t + 1) = sha2Step p (sha2Trace p h x t) (p.k.getD t 0, sha2Word p x t) := by
  have scheduled : t < (sha2Schedule p x).length := (sha2Schedule_length full x).symm ▸ ht
  have inside : t < (p.k.zip (sha2Schedule p x)).length := by rw [List.length_zip]; exact lt_min ht scheduled
  rw [sha2Trace, List.take_succ_eq_append_getElem inside, List.foldl_append, List.foldl_cons, List.foldl_nil,
    List.getElem_zip, sha2Word, List.getD_eq_getElem _ _ ht, List.getD_eq_getElem _ _ scheduled, sha2Trace]

/-- The feed-forward on native words (R278, R288). -/
theorem sha2Block_native (native : p.alu = nativeAlu w) (h : Vector (BitVec w) 8) (x : Vector (BitVec w) 16) :
    sha2Block p h x =
      let v := sha2Trace p h x p.k.length
      #v[h[0] + v.a, h[1] + v.b, h[2] + v.c, h[3] + v.d, h[4] + v.e, h[5] + v.f, h[6] + v.g, h[7] + v.h] := by
  have whole : (p.k.zip (sha2Schedule p x)).length ≤ p.k.length := by
    rw [List.length_zip]; exact min_le_left _ _
  simp only [sha2Block, sha2Trace, List.take_of_length_le whole, native]
  rfl

/-- A unit with native words runs R274's steps over its constants, from `h'` and the block words `x'`. -/
theorem sha2Block_sha2Run (native : p.alu = nativeAlu w) (full : 16 ≤ p.k.length) {h : Vector (BitVec w) 8}
    {x : Vector (BitVec w) 16} {h' x' : Nat → BitVec w} (state : ∀ (i : Nat) (hi : i < 8), h[i] = h' i)
    (block : ∀ (j : Nat) (hj : j < 16), x[j] = x' j) :
    Sha2Run (bigSigma p.alu p.bigSigma0) (bigSigma p.alu p.bigSigma1) (smallSigma p.alu p.smallSigma0)
      (smallSigma p.alu p.smallSigma1) (fun i => p.k.getD i 0) x' h'
      (fun i => (sha2Block p h x).toList.getD i 0) p.k.length := by
  refine ⟨sha2Word p x, sha2Trace p h x, fun t ht => (sha2Word_of_lt x ht).trans (block t ht),
    fun t => sha2Word_recurrence native x, ?_,
    fun t ht => (sha2Trace_succ full h x ht).trans (sha2Step_native native ..), ?_⟩
  · simp only [sha2Trace, List.take_zero, List.foldl_nil, state]
  · simp only [sha2Block_native native, state]
    exact ⟨rfl, rfl, rfl, rfl, rfl, rfl, rfl, rfl⟩

end Unit

/-- Settles O53: the unit's run with R271's amounts, which are in the range of R9's rotation. -/
theorem sha256CompressSteps : Obligations.Sha256CompressSteps := by
  intro s
  have run := sha2Block_sha2Run (p := sha256Params) rfl (by decide) (fun i => readWords_eq_h32 s)
    (fun j => blockWords_eq_xBe32 s)
  rw [show sha256Params.alu = nativeAlu 32 from rfl, bigSigma_nativeAlu (by decide) (by decide) (by decide),
    bigSigma_nativeAlu (by decide) (by decide) (by decide), smallSigma_nativeAlu (by decide) (by decide),
    smallSigma_nativeAlu (by decide) (by decide)] at run
  exact ⟨_, _, rfl, run, unitDone_writeWords_unitResult s (by decide) fun i hi => (vector_getD _ 0 i hi).symm⟩

/-- Settles O54: the unit's run with R287's amounts, on native 64-bit words since P_NATIVE64 is set. -/
theorem sha512CompressSteps : Obligations.Sha512CompressSteps := by
  intro s
  have run := sha2Block_sha2Run (p := sha512Params Config.native64) rfl (by decide) (fun i => readWords_eq_hReg s)
    (fun j => blockWords_eq_xBe64 s)
  rw [show (sha512Params Config.native64).alu = nativeAlu 64 from rfl,
    bigSigma_nativeAlu (by decide) (by decide) (by decide), bigSigma_nativeAlu (by decide) (by decide) (by decide),
    smallSigma_nativeAlu (by decide) (by decide), smallSigma_nativeAlu (by decide) (by decide)] at run
  exact ⟨_, _, rfl, run, unitDone_writeWords_unitResult s (by decide) fun i hi => (vector_getD _ 0 i hi).symm⟩

end Sys2Proof.Machine


namespace Sys2Proof.Machine

/-! # The BLAKE2 compression units (46_blake2 R310 to R317)

The rules assign to the working vector word by word; `workWord` reads the model's vector as R314's v, so that a
vector update is the rules' assignment and a round of the model is R315's round. -/

open Sys2Proof.Claims

/-- Block decoding gives the little-endian 64-bit words of the block wires (R63). -/
theorem blockWords_eq_xLe64 (s : State) {j : Nat} (hj : j < 16) :
    (blockWords .little 64 s.ports.blk.toList)[j] = xLe64 s j := by
  rw [blockWords_getElem, xLe64, Nat.mul_comm]
  rfl

/-! ## The working vector (R314) -/

/-- `v[j]` of a working vector. -/
def workWord {w : Nat} (v : Blake2Work w) (j : Nat) : BitVec w := v.toList.getD j 0

theorem getElem_eq_workWord {w : Nat} (v : Blake2Work w) (i : Nat) (hi : i < 16) : v[i] = workWord v i :=
  (vector_getD v 0 i hi).symm

theorem workWord_set {w : Nat} (v : Blake2Work w) (i : Fin 16) (x : BitVec w) :
    workWord (v.set i x) = upd (workWord v) i x := by
  funext j
  rcases eq_or_ne j i with rfl | other
  · simp [workWord, upd]
  · simp [workWord, upd, other, other.symm]

/-! ## The mixing function (R314) -/

/-- The first four assignments of R314's `G`; the other four are these with `y` and the other two amounts. -/
def blakeHalfG {w : Nat} (r r' a b c d : Nat) (x : BitVec w) (v0 : Nat → BitVec w) : Nat → BitVec w :=
  let v1 := upd v0 a (v0 a + v0 b + x)
  let v2 := upd v1 d ((v1 d ^^^ v1 a).rotateRight r)
  let v3 := upd v2 c (v2 c + v2 d)
  upd v3 b ((v3 b ^^^ v3 c).rotateRight r')

theorem blakeG_eq_halves {w : Nat} (r1 r2 r3 r4 a b c d : Nat) (x y : BitVec w) (v : Nat → BitVec w) :
    blakeG r1 r2 r3 r4 a b c d x y v = blakeHalfG r3 r4 a b c d y (blakeHalfG r1 r2 a b c d x v) := rfl

/-- The model computes the four values before it assigns them: of distinct places, no assignment changes a word
that a later one reads from the old vector. -/
theorem workWord_blake2HalfG {w : Nat} {r r' : Nat} (hr : r < w) (hr' : r' < w) {a b c d : Fin 16}
    (distinct : [a, b, c, d].Nodup) (x : BitVec w) (v : Blake2Work w) :
    workWord (blake2HalfG (nativeAlu w) r r' a b c d x v) = blakeHalfG r r' a b c d x (workWord v) := by
  simp only [List.nodup_cons, List.mem_cons, List.not_mem_nil, or_false, not_or, Fin.ext_iff] at distinct
  obtain ⟨⟨ab, ac, ad⟩, ⟨bc, bd⟩, cd, -⟩ := distinct
  simp only [blake2HalfG, blakeHalfG, nativeAlu, workWord_set, Fin.getElem_fin, getElem_eq_workWord,
    rotr_eq_rotateRight _ _ hr, rotr_eq_rotateRight _ _ hr', upd, if_true, Ne.symm ab, Ne.symm ac, Ne.symm ad,
    bc, bd, cd, if_false]

/-! ## The rounds and the feed-forward (R315 to R317) -/

/-- A unit on native words whose amounts are in the range for which R9 defines the rotation. -/
structure NativeBlake2 {w : Nat} (p : Blake2Unit w) : Prop where
  alu : p.alu = nativeAlu w
  r1 : p.r1 < w
  r2 : p.r2 < w
  r3 : p.r3 < w
  r4 : p.r4 < w

section Unit

variable {w : Nat} {p : Blake2Unit w}

theorem workWord_blake2G (native : NativeBlake2 p) {a b c d : Fin 16} (distinct : [a, b, c, d].Nodup)
    (x y : BitVec w) (v : Blake2Work w) :
    workWord (blake2G p a b c d x y v) = blakeG p.r1 p.r2 p.r3 p.r4 a b c d x y (workWord v) := by
  rw [blake2G, native.alu, workWord_blake2HalfG native.r3 native.r4 distinct,
    workWord_blake2HalfG native.r1 native.r2 distinct, blakeG_eq_halves]

/-- Each of R315's eight mixings has four distinct places. -/
theorem workWord_blake2Round (native : NativeBlake2 p) {x : Vector (BitVec w) 16} {x' : Nat → BitVec w}
    (block : ∀ (j : Nat) (hj : j < 16), x[j] = x' j) (v : Blake2Work w) (i : Nat) :
    workWord (blake2Round p x v i) = blakeRound p.r1 p.r2 p.r3 p.r4 x' i (workWord v) := by
  have word (j : Fin 16) : x[j] = x' j := block j j.isLt
  simp only [blake2Round, word]
  iterate 8 rw [workWord_blake2G native (by decide)]
  rfl

/-- The working vector before round `i`. -/
def blake2Trace (p : Blake2Unit w) (h : Vector (BitVec w) 8) (x : Vector (BitVec w) 16) (t : BitVec 128)
    (last : Bool) (i : Nat) : Blake2Work w :=
  (List.range i).foldl (blake2Round p x) (blake2Init p h t last)

theorem blake2Trace_succ (h : Vector (BitVec w) 8) (x : Vector (BitVec w) 16) (t : BitVec 128) (last : Bool)
    (i : Nat) : blake2Trace p h x t last (i + 1) = blake2Round p x (blake2Trace p h x t last i) i :=
  foldl_range_succ ..

/-- The state half of the vector before the first round. -/
theorem workWord_blake2Init_state (h : Vector (BitVec w) 8) (t : BitVec 128) (last : Bool) {j : Nat} (hj : j < 8) :
    workWord (blake2Init p h t last) j = h[j] := by
  match j, hj with
  | 0, _ | 1, _ | 2, _ | 3, _ | 4, _ | 5, _ | 6, _ | 7, _ => rfl

/-- The IV half of the vector before the first round, with the counter words and the inverted v[14] of a last
block. -/
theorem workWord_blake2Init_iv (native : NativeBlake2 p) (h : Vector (BitVec w) 8) (t : BitVec 128) (last : Bool)
    {j : Nat} (hj : j < 8) :
    workWord (blake2Init p h t last) (8 + j) =
      if j = 4 then p.iv.getD 4 0 ^^^ t.extractLsb' 0 w
      else if j = 5 then p.iv.getD 5 0 ^^^ t.extractLsb' w w
      else if j = 6 ∧ last = true then ~~~(p.iv.getD 6 0) else p.iv.getD j 0 := by
  simp only [blake2Init, native.alu]
  match j, hj with
  | 0, _ | 1, _ | 2, _ | 3, _ | 4, _ | 5, _ | 7, _ => rfl
  | 6, _ => cases last <;> rfl

/-- The feed-forward on native words, word by word. -/
theorem blake2Block_getElem (native : NativeBlake2 p) (h : Vector (BitVec w) 8) (x : Vector (BitVec w) 16)
    (t : BitVec 128) (last : Bool) {j : Nat} (hj : j < 8) :
    (blake2Block p h x t last)[j] =
      h[j] ^^^ workWord (blake2Trace p h x t last p.rounds) j ^^^
        workWord (blake2Trace p h x t last p.rounds) (j + 8) := by
  simp only [blake2Block, native.alu, getElem_eq_workWord]
  match j, hj with
  | 0, _ | 1, _ | 2, _ | 3, _ | 4, _ | 5, _ | 6, _ | 7, _ => rfl

/-- The low counter word of R313. -/
theorem counter_low (t : BitVec 128) (w : Nat) : t.extractLsb' 0 w = BitVec.ofNat w t.toNat := rfl

/-- The high counter word of R313. -/
theorem counter_high (t : BitVec 128) (w : Nat) : t.extractLsb' w w = BitVec.ofNat w (t.toNat / 2 ^ w) := by
  rw [← Nat.shiftRight_eq_div_pow]
  rfl

/-- A unit with native words runs R315's rounds with its amounts, from `h'` and the block words `x'`. -/
theorem blake2Block_blake2Run (native : NativeBlake2 p) {h : Vector (BitVec w) 8} {x : Vector (BitVec w) 16}
    {h' x' : Nat → BitVec w} (state : ∀ (i : Nat) (hi : i < 8), h[i] = h' i)
    (block : ∀ (j : Nat) (hj : j < 16), x[j] = x' j) (t : BitVec 128) (last : Bool) :
    Blake2Run p.r1 p.r2 p.r3 p.r4 p.rounds p.iv x' h' (fun j => (blake2Block p h x t last).toList.getD j 0)
      (BitVec.ofNat w t.toNat) (BitVec.ofNat w (t.toNat / 2 ^ w)) last := by
  rw [← counter_low, ← counter_high]
  refine ⟨fun i => workWord (blake2Trace p h x t last i), fun j hj => ?_,
    fun j hj => workWord_blake2Init_iv native h t last hj, fun i _ j _ => ?_, fun j hj => ?_⟩
  · exact (workWord_blake2Init_state h t last hj).trans (state j hj)
  · simp only [blake2Trace_succ, workWord_blake2Round native block]
  · exact (vector_getD _ 0 j hj).trans (state j hj ▸ blake2Block_getElem native h x t last hj)

end Unit

/-! ## The units (R316, R317) -/

/-- BLAKE2s's amounts 16 12 8 7. -/
theorem nativeBlake2_blake2sParams : NativeBlake2 blake2sParams := ⟨rfl, by decide, by decide, by decide, by decide⟩

/-- BLAKE2b's amounts 32 24 16 63, on native 64-bit words since P_NATIVE64 is set. -/
theorem nativeBlake2_blake2bParams : NativeBlake2 (blake2bParams Config.native64) :=
  ⟨rfl, by decide, by decide, by decide, by decide⟩

/-- Settles O55: the unit's run on the state registers and the block wires, whose words it writes. -/
theorem blake2sCompressRounds : Obligations.Blake2sCompressRounds := fun s =>
  ⟨_, _, rfl,
    blake2Block_blake2Run nativeBlake2_blake2sParams (fun _ => readWords_eq_h32 s) (fun _ => blockWords_eq_xLe32 s)
      s.ports.t s.ports.last,
    unitDone_writeWords_unitResult s (by decide) fun i hi => (vector_getD _ 0 i hi).symm⟩

/-- Settles O56: as O55, with 12 rounds on 64-bit words. -/
theorem blake2bCompressRounds : Obligations.Blake2bCompressRounds := fun s =>
  ⟨_, _, rfl,
    blake2Block_blake2Run nativeBlake2_blake2bParams (fun _ => readWords_eq_hReg s)
      (fun _ => blockWords_eq_xLe64 s) s.ports.t s.ports.last,
    unitDone_writeWords_unitResult s (by decide) fun i hi => (vector_getD _ 0 i hi).symm⟩

end Sys2Proof.Machine


namespace Sys2Proof.Machine

/-! # The arithmetic on halves (47_word64_alu R340 to R348)

Each operation on two 32-bit halves is the native operation on the 64-bit word they form, so the two
implementations that P_NATIVE64 chooses between are one. -/

/-! ## A word as its halves (R341) -/

theorem join64_hi32_lo32 (x : Word64) : join64 (hi32 x) (lo32 x) = x := BitVec.extractLsb'_append_extractLsb'

theorem join64_toNat (h l : Word32) : (join64 h l).toNat = h.toNat * 2 ^ 32 + l.toNat := by
  rw [join64, BitVec.toNat_append, ← Nat.shiftLeft_add_eq_or_of_lt l.isLt, Nat.shiftLeft_eq]

theorem toNat_eq_halves (x : Word64) : x.toNat = (hi32 x).toNat * 2 ^ 32 + (lo32 x).toNat := by
  rw [← join64_toNat, join64_hi32_lo32]

/-! ## The bitwise operations (R342 to R345) -/

theorem halvesNot_eq (a : Word64) : halvesNot a = ~~~a :=
  calc halvesNot a = ~~~join64 (hi32 a) (lo32 a) := BitVec.not_append.symm
    _ = ~~~a := by rw [join64_hi32_lo32]

theorem halvesAnd_eq (a b : Word64) : halvesAnd a b = a &&& b :=
  calc halvesAnd a b = join64 (hi32 a) (lo32 a) &&& join64 (hi32 b) (lo32 b) := BitVec.and_append.symm
    _ = a &&& b := by simp only [join64_hi32_lo32]

theorem halvesOr_eq (a b : Word64) : halvesOr a b = a ||| b :=
  calc halvesOr a b = join64 (hi32 a) (lo32 a) ||| join64 (hi32 b) (lo32 b) := BitVec.or_append.symm
    _ = a ||| b := by simp only [join64_hi32_lo32]

theorem halvesXor_eq (a b : Word64) : halvesXor a b = a ^^^ b :=
  calc halvesXor a b = join64 (hi32 a) (lo32 a) ^^^ join64 (hi32 b) (lo32 b) := BitVec.xor_append.symm
    _ = a ^^^ b := by simp only [join64_hi32_lo32]

/-! ## The addition (R346) -/

/-- The low half of `halvesAdd` is the exact sum modulo 2^32, and the carry its quotient. -/
theorem halvesAdd_toNat (a b : Word64) :
    (halvesAdd a b).toNat =
      ((hi32 a).toNat + (hi32 b).toNat + ((lo32 a).toNat + (lo32 b).toNat) / 2 ^ 32) % 2 ^ 32 * 2 ^ 32 +
        ((lo32 a).toNat + (lo32 b).toNat) % 2 ^ 32 := by
  have la := (lo32 a).isLt
  have lb := (lo32 b).isLt
  simp only [halvesAdd, join64_toNat, BitVec.toNat_add, BitVec.toNat_setWidth, BitVec.extractLsb'_toNat,
    Nat.shiftRight_eq_div_pow]
  omega

theorem halvesAdd_eq (a b : Word64) : halvesAdd a b = a + b := by
  apply BitVec.eq_of_toNat_eq
  rw [halvesAdd_toNat, BitVec.toNat_add, toNat_eq_halves a, toNat_eq_halves b]
  omega

/-! ## The shifts (R348)

A shift by at most 32 moves part of one half into the other; a shift by at least 32 moves one half out. Both are
read off bit by bit: each bit of the result is one bit of a half, or 0. -/

theorem join64_ushiftRight_of_le (h l : Word32) {n : Nat} (hn : n ≤ 32) :
    join64 h l >>> n = join64 (h >>> n) ((l >>> n) ||| (h <<< (32 - n))) := by
  apply BitVec.eq_of_getLsbD_eq
  intro i hi
  simp only [join64_getLsbD, BitVec.getLsbD_or, BitVec.getLsbD_ushiftRight, BitVec.getLsbD_shiftLeft]
  grind

theorem join64_ushiftRight_of_ge (h l : Word32) {n : Nat} (hn : 32 ≤ n) :
    join64 h l >>> n = join64 0 (h >>> (n - 32)) := by
  apply BitVec.eq_of_getLsbD_eq
  intro i hi
  simp only [join64_getLsbD, BitVec.getLsbD_ushiftRight]
  grind

/-- For every amount, those of more than 64 included, for which both give 0. -/
theorem halvesShr_eq (a : Word64) (n : Nat) : halvesShr a n = a >>> n := by
  unfold halvesShr
  split_ifs with out high zero
  · rw [out, BitVec.ushiftRight_eq_zero le_rfl]
    rfl
  · rw [← join64_ushiftRight_of_ge _ (lo32 a) high, join64_hi32_lo32]
  · rw [zero, BitVec.ushiftRight_zero]
  · rw [← join64_ushiftRight_of_le _ _ (by omega), join64_hi32_lo32]

/-! ## The rotation (R347)

A rotation by at most 32 moves the ends of the halves into each other; a rotation by 32 and more is one of the
exchanged halves. -/

theorem rotr_join64_of_le (h l : Word32) {k : Nat} (hk : k ≤ 32) :
    rotr (join64 h l) k = join64 ((h >>> k) ||| (l <<< (32 - k))) ((l >>> k) ||| (h <<< (32 - k))) := by
  apply BitVec.eq_of_getLsbD_eq
  intro i hi
  simp only [rotr, join64_getLsbD, BitVec.getLsbD_or, BitVec.getLsbD_ushiftRight, BitVec.getLsbD_shiftLeft]
  grind

theorem rotr_join64_32_add (h l : Word32) (k : Nat) :
    rotr (join64 h l) (32 + k) = join64 ((l >>> k) ||| (h <<< (32 - k))) ((h >>> k) ||| (l <<< (32 - k))) := by
  apply BitVec.eq_of_getLsbD_eq
  intro i hi
  simp only [rotr, join64_getLsbD, BitVec.getLsbD_or, BitVec.getLsbD_ushiftRight, BitVec.getLsbD_shiftLeft]
  grind

/-- A rotation by 0 is no special case: a half shifted by 32 places is 0. -/
theorem rotateHalves_ite_zero (h l : Word32) (k : Nat) :
    (if k = 0 then join64 h l else join64 ((h >>> k) ||| (l <<< (32 - k))) ((l >>> k) ||| (h <<< (32 - k)))) =
      join64 ((h >>> k) ||| (l <<< (32 - k))) ((l >>> k) ||| (h <<< (32 - k))) := by
  split_ifs with zero
  · simp [zero]
  · rfl

/-- For every amount, those of 64 and more included, for which both keep the word. -/
theorem halvesRotr_eq_rotr (a : Word64) (n : Nat) : halvesRotr a n = rotr a n := by
  simp only [halvesRotr, rotateHalves_ite_zero]
  rcases Nat.lt_or_ge n 32 with below | swap
  · simp only [Nat.not_le.mpr below, decide_false, Bool.false_eq_true, if_false]
    rw [← rotr_join64_of_le _ _ below.le, join64_hi32_lo32]
  · obtain ⟨k, rfl⟩ := Nat.exists_eq_add_of_le swap
    simp only [swap, decide_true, if_true, Nat.add_sub_cancel_left]
    rw [← rotr_join64_32_add, join64_hi32_lo32]

/-! ## The two implementations are one (R340) -/

theorem halvesAlu_eq_nativeAlu : halvesAlu = nativeAlu 64 := by
  rw [halvesAlu, nativeAlu, funext halvesNot_eq, funext₂ halvesAnd_eq, funext₂ halvesOr_eq, funext₂ halvesXor_eq,
    funext₂ halvesAdd_eq, funext₂ halvesRotr_eq_rotr, funext₂ halvesShr_eq]

theorem alu64_eq_nativeAlu (native : Bool) : alu64 native = nativeAlu 64 := by
  cases native with
  | false => exact halvesAlu_eq_nativeAlu
  | true => rfl

/-- Settles O60: both units take their arithmetic from `alu64`, whose two values are equal, so that the units'
parameters and with them every round are the same. -/
theorem nativeAndHalvesUnitsAgree : Obligations.NativeAndHalvesUnitsAgree := by
  intro h blk t last
  have sha512 : sha512Params false = sha512Params true := by simp only [sha512Params, alu64_eq_nativeAlu]
  have blake2b : blake2bParams false = blake2bParams true := by simp only [blake2bParams, alu64_eq_nativeAlu]
  exact ⟨by rw [sha512Unit, sha512, sha512Unit], by rw [blake2bUnit, blake2b, blake2bUnit]⟩

/-! ## The operations by themselves (R341) -/

/-- A legal W64 operation whose function `f` on halves is `g`. -/
theorem w64Op_of_eq {legal : Bool} {f g : Word64 → Word64 → Word64} (ok : legal = true) (same : ∀ a b, f a b = g a b)
    (s : State) :
    w64Op legal f s = .next { s with sel := none, ports := { s.ports with r := g s.ports.a s.ports.b } } := by
  rw [ok, ← same]
  rfl

/-- Settles O57: a bitwise operation acts on each half of the word by itself. -/
theorem w64BitwiseOperations : Obligations.W64BitwiseOperations := fun s =>
  ⟨w64Op_of_eq rfl (fun a _ => halvesNot_eq a) s, w64Op_of_eq rfl halvesAnd_eq s, w64Op_of_eq rfl halvesOr_eq s,
    w64Op_of_eq rfl halvesXor_eq s⟩

/-- Settles O58: the carry of the low halves' exact sum enters the high half's sum. -/
theorem w64AddIsAddition : Obligations.W64AddIsAddition := w64Op_of_eq rfl halvesAdd_eq

/-- Settles O59: the rotation is R9's, which is BitVec's for an amount below 64. -/
theorem w64RotateAndShift : Obligations.W64RotateAndShift := fun amt s =>
  ⟨fun inRange => w64Op_of_eq (decide_eq_true inRange) (fun a _ =>
      (halvesRotr_eq_rotr a amt.toNat).trans (rotr_eq_rotateRight a amt.toNat (Nat.lt_succ_of_le inRange))) s,
    fun inRange => w64Op_of_eq (decide_eq_true inRange) (fun a _ => halvesShr_eq a amt.toNat) s⟩

end Sys2Proof.Machine


namespace Sys2Proof.Machine

/-! # Exceptions, reset and the idle engine (60_exceptions R370 to R389, 70_reset R400)

`reject` is the one way to reject a command, and a tail of FINISH is malformed only with more pending bytes than a
block: the check orders, what rejection leaves alone, and what sets and clears FATAL follow from these two. -/

open Claims

/-- With no selector waiting a step is idle, or rejects a command word, or is a host command. -/
theorem step_transaction_cases {s t : State} (sel : s.sel = none) (h : step s = .next t) :
    t = s ∨ t = reject .illegalCmd s ∨ ∃ i, HostCase i s t := by
  rcases step_cases s with ⟨-, -, e⟩ | ⟨_, _, _, -, -, -, e⟩ | ⟨_, _, i, -, -, -, host, e⟩ |
    ⟨v, _, hv, -, -⟩ | ⟨v, _, hv, -, -, -⟩
  · exact .inl (Host.Outcome.next.inj (h.symm.trans e))
  · exact .inr (.inl (Host.Outcome.next.inj (h.symm.trans e)))
  · exact .inr (.inr ⟨i, HostCase.of_exec host (e.symm.trans h)⟩)
  · cases hv.symm.trans sel
  · cases hv.symm.trans sel

/-! ## FATAL (R377) -/

/-- FINISH's body completes unless more bytes are pending than a block holds (40_engine R124, 41_padding R164). -/
theorem finishBody_of_plen_le {a : Alg} {s : State} (plen : s.plen.toNat ≤ a.desc.bs.bytes) :
    ∃ t, finishBody a s = .ok t := by
  rcases finishBody_cases a s with ⟨-, e⟩ | ⟨-, -, -, h, -, e⟩ | ⟨-, -, long, -, -⟩
  · exact ⟨s, e⟩
  · exact ⟨_, e⟩
  · rw [pending_length] at long
    omega

theorem MessageInv.plen_le {a : Alg} {s : State} (inv : MessageInv a s) : s.plen.toNat ≤ a.desc.bs.bytes := by
  have bound := inv.plenBound
  split at bound
  · exact bound
  · exact bound.le

/-- A host command keeps FATAL, but for an INIT, which can clear it, and a malformed tail, which sets it. -/
theorem HostCase.fatal_cases {i : Instr} {s t : State} (c : HostCase i s t) :
    t.fatal = s.fatal ∨ ((∃ algid nnreq var, i = .init algid nnreq var) ∧ t.fatal = false) ∨
    ∃ a, s.fatal = false ∧ s.alg = some a ∧ finishBody a s = .error .padInternal := by
  cases c with
  | rejected | read => exact .inl rfl
  | started algid nnreq var _ instr => exact .inr (.inl ⟨⟨algid, nnreq, var, instr⟩, rfl⟩)
  | added _ _ _ _ _ _ _ _ _ _ frame => exact .inl frame.fatal
  | finished _ _ _ _ _ _ _ body =>
    obtain ⟨-, -, -, -, fatal, -⟩ := finishBody_frame body
    exact .inl fatal
  | malformed a _ _ fatal alg body => exact .inr (.inr ⟨a, fatal, alg, body⟩)

/-- Settles O14: with no selector waiting only a malformed tail sets FATAL, and the invariant bounds PLEN by a
block. -/
theorem noStepFromTheInvariantsIsFatal : Obligations.NoStepFromTheInvariantsIsFatal := by
  intro s t inv fatal h
  rcases step_transaction_cases inv.1 h with rfl | rfl | ⟨i, host⟩
  · exact fatal
  · exact fatal
  · rcases host.fatal_cases with kept | ⟨-, cleared⟩ | ⟨a, -, alg, malformed⟩
    · exact kept.trans fatal
    · exact cleared
    · obtain ⟨u, completes⟩ := finishBody_of_plen_le (inv.messageInv fatal alg).plen_le
      cases malformed.symm.trans completes

/-- Only INIT clears FATAL (R378). -/
theorem exec_keeps_fatal {i : Instr} {s t : State} (notInit : ∀ algid nnreq var, i ≠ .init algid nnreq var)
    (fatal : s.fatal = true) (h : exec i s = .next t) : t.fatal = true := by
  cases host : i.isHostCommand with
  | false =>
    rcases exec_internal_cases i host s with e | ⟨_, _, e⟩
    all_goals obtain rfl := Host.Outcome.next.inj (e.symm.trans h)
    · rfl
    · exact fatal
  | true =>
    rcases (HostCase.of_exec host h).fatal_cases with kept | ⟨⟨algid, nnreq, var, instr⟩, -⟩ | ⟨_, fatal', -, -⟩
    · exact kept.trans fatal
    · exact absurd instr (notInit algid nnreq var)
    · cases fatal.symm.trans fatal'

/-! ## The check orders (R371) -/

/-- Settles O21: ADD's cases are the checks in order, and with none of them it is accepted. -/
theorem addChecksInOrder : Obligations.AddChecksInOrder := by
  intro n s
  rcases execAdd_cases n s with ⟨c, e, code⟩ | ⟨a, t, payload, fatal, alg, fin, limit, -, frame, e⟩
  · refine ⟨_, e, ?_⟩
    have rejected := reject_rejectedWith c s
    rcases code with ⟨payload, rfl⟩ | ⟨payload, fatal, rfl⟩ | ⟨payload, fatal, alg, rfl⟩ |
      ⟨payload, fatal, alg, fin, rfl⟩ | ⟨payload, fatal, alg, fin, limit, rfl⟩
    · rwa [if_pos payload]
    · simpa [payload, fatal] using rejected
    · simpa [payload, fatal, alg] using rejected
    · simpa [payload, fatal, alg, fin] using rejected
    · have exceeds : s.count.toNat + s.plen.toNat + n.toNat > 2 ^ 61 - 1 := limit
      rwa [if_neg (not_not.mpr payload), if_neg (Bool.eq_false_iff.mp fatal), if_neg alg,
        if_neg (Bool.eq_false_iff.mp fin), if_pos exceeds]
  · have answered : Answered .ok [] s (accept [] t) :=
      accept_answered [] frame.inbox frame.outbox frame.sel frame.ports frame.draws
    have fits : ¬ s.count.toNat + s.plen.toNat + n.toNat > 2 ^ 61 - 1 := Nat.not_lt.mpr limit
    refine ⟨_, e, ?_⟩
    rw [if_neg (not_not.mpr payload), if_neg (Bool.eq_false_iff.mp fatal), if_neg (by simp [alg]),
      if_neg (Bool.eq_false_iff.mp fin), if_neg fits]
    exact ⟨answered, rfl⟩

/-- Settles O22: the cases of a finishing command are the checks in order, and a PLEN within a block leaves no
malformed tail. -/
theorem finishingChecksInOrder : Obligations.FinishingChecksInOrder := by
  intro i s hi
  obtain ⟨data, exec_eq⟩ := exec_finishing hi
  rw [exec_eq]
  rcases finishing_cases data s with ⟨c, e, code⟩ | ⟨a, t, payload, fatal, alg, body, e⟩ |
    ⟨a, payload, fatal, alg, malformed, e⟩
  all_goals refine ⟨_, e, ?_⟩
  · have rejected := reject_rejectedWith c s
    rcases code with ⟨payload, rfl⟩ | ⟨payload, fatal, rfl⟩ | ⟨payload, fatal, alg, rfl⟩
    · rwa [if_pos payload]
    · simpa [payload, fatal] using rejected
    · simpa [payload, fatal, alg] using rejected
  · simpa [payload, fatal, alg] using fun _ => ⟨_, finishBody_answered body (data t)⟩
  · have completes : ¬ s.plen.toNat ≤ a.desc.bs.bytes := fun plen => by
      obtain ⟨u, completes⟩ := finishBody_of_plen_le plen
      cases malformed.symm.trans completes
    simpa [payload, fatal, alg] using fun plen => absurd plen completes

/-! ## Rejection (R372) -/

/-- A host command that answers with a rejection's code was rejected with it: the other cases answer OK or
E_PAD_INTERNAL. -/
theorem HostCase.rejectedWith {i : Instr} {s t : State} {code : ResultCode} (c : HostCase i s t)
    (last : lastCode t = some code)
    (rejection : code ∈ [ResultCode.illegalCmd, .unknownAlg, .noAlg, .finalized, .lengthLimit, .fatalState]) :
    RejectedWith code s t := by
  cases c with
  | rejected c =>
    obtain rfl : c = code := by simpa using last
    exact reject_rejectedWith c s
  | read | started | added | finished | malformed =>
    obtain rfl := Option.some.inj ((lastCode_respond ..).symm.trans last)
    simp at rejection

/-- Settles O20: a step that returns a response rejects a command word, or is a host command. -/
theorem rejectionChangesOnlyLastErr : Obligations.RejectionChangesOnlyLastErr := by
  intro s t r sel h outbox rejection
  have last : lastCode t = some r.code := by simp [lastCode, outbox]
  rcases step_transaction_cases sel h with rfl | rfl | ⟨i, host⟩
  · simp at outbox
  · rw [← Option.some.inj ((lastCode_reject ..).symm.trans last)]
    exact reject_rejectedWith _ s
  · exact host.rejectedWith last rejection

/-! ## INIT's request (R373, 30_encoding R84, R85) -/

/-- An algorithm's ALGID names it (30_encoding R84). -/
theorem ofId_some {algid : BitVec 8} {a : Alg} (h : Alg.ofId algid = some a) : a.id = algid := by
  unfold Alg.ofId at h
  split at h <;> cases h
  all_goals exact BitVec.eq_of_toNat_eq (Eq.symm ‹_›)

theorem id_bounds (a : Alg) : 1 ≤ a.id.toNat ∧ a.id.toNat ≤ 0x0E := by cases a <;> decide

/-- The digest lengths of R85, by ALGID. -/
theorem nnLegal_by_id {a : Alg} {nnreq : BitVec 7} (legal : a.nnLegal nnreq = true) :
    (a.id.toNat ≤ 0x0C → nnreq = 0 ∨
      nnreq.toNat = [0, 16, 16, 20, 32, 40, 20, 28, 32, 48, 64, 28, 32].getD a.id.toNat 0) ∧
    (a.id.toNat = 0x0D → nnreq.toNat ≤ 32) ∧ (a.id.toNat = 0x0E → nnreq.toNat ≤ 64) := by
  cases a with
  | blake2s => exact ⟨fun h => absurd h (by decide), fun _ => of_decide_eq_true legal, fun h => absurd h (by decide)⟩
  | blake2b => exact ⟨fun h => absurd h (by decide), fun h => absurd h (by decide), fun _ => of_decide_eq_true legal⟩
  | _ =>
    refine ⟨fun _ => ?_, fun h => absurd h (by decide), fun h => absurd h (by decide)⟩
    exact (of_decide_eq_true legal).imp_right (congrArg BitVec.toNat)

/-- Settles O25: an ALGID that names an algorithm is in range, and a legal NNREQ is among its lengths. -/
theorem initRejectsUnknownRequests : Obligations.InitRejectsUnknownRequests := by
  intro algid nnreq var s payload unknown
  rcases execInit_cases algid nnreq var s with ⟨nonempty, -⟩ | ⟨-, -, e⟩ | ⟨-, a, requested, -⟩
  · exact absurd payload nonempty
  · exact ⟨_, e, reject_rejectedWith _ s⟩
  · obtain ⟨named, legal⟩ := requestedAlg_some.mp requested
    obtain rfl := ofId_some named
    obtain ⟨fixed, blake2s, blake2b⟩ := nnLegal_by_id legal
    have bounds := id_bounds a
    rcases unknown with zero | high | ⟨-, low, nonzero, other⟩ | ⟨is, long⟩ | ⟨is, long⟩
    · omega
    · omega
    · exact absurd (fixed low) (not_or.mpr ⟨nonzero, other⟩)
    · exact absurd (blake2s is) (Nat.not_le.mpr long)
    · exact absurd (blake2b is) (Nat.not_le.mpr long)

/-! ## The fatal state (R378) -/

/-- After an INIT from a fatal state either a new message has begun or FATAL is still 1. -/
theorem exec_init_of_fatal {algid : BitVec 8} {nnreq : BitVec 7} {var : BitVec 1} {s t : State}
    (fatal : s.fatal = true) (h : exec (.init algid nnreq var) s = .next t) :
    if t.lasterr = .ok then t.fatal = false ∧ t.fin = false ∧ t.msgLen = 0 ∧ t.algId = algid
    else t.fatal = true := by
  rcases execInit_cases algid nnreq var s with ⟨-, e⟩ | ⟨-, -, e⟩ | ⟨-, a, requested, e⟩
  all_goals obtain rfl := Host.Outcome.next.inj (e.symm.trans h)
  · exact fatal
  · exact fatal
  · exact ⟨rfl, rfl, rfl, ofId_some (requestedAlg_some.mp requested).1⟩

/-- Settles O19: FATAL is the second check of ADD and of the finishing commands, STATUS[17] shows it, and only INIT
clears it. -/
theorem fatalStateLastsUntilInit : Obligations.FatalStateLastsUntilInit := by
  intro i s t fatal h
  refine ⟨?add, ?finishing, ?stat, ?init, fun notInit => exec_keeps_fatal notInit fatal h⟩
  case add =>
    rintro n rfl payload
    obtain ⟨u, e, checks⟩ := addChecksInOrder n s
    obtain rfl := Host.Outcome.next.inj (e.symm.trans h)
    simpa [payload, fatal] using checks
  case finishing =>
    intro hi payload
    obtain ⟨u, e, checks⟩ := finishingChecksInOrder i s hi
    obtain rfl := Host.Outcome.next.inj (e.symm.trans h)
    simpa [payload, fatal] using checks
  case stat =>
    rintro rfl payload
    obtain ⟨u, e, answered, -, -⟩ := statReadsTheStatusWord s payload
    obtain rfl := Host.Outcome.next.inj (e.symm.trans h)
    obtain ⟨-, -, -, -, shown, -⟩ := statusWordLayout u
    have kept : u.fatal = true := exec_keeps_fatal (by simp) fatal h
    exact ⟨answered, by rw [shown, kept]; rfl⟩
  case init =>
    rintro algid nnreq var rfl
    exact exec_init_of_fatal fatal h

/-! ## The idle engine and reset (R389, 70_reset R400) -/

/-- Settles O8: nothing is fetched, so the state stays as it is. -/
theorem idleKeepsEveryRegister : Obligations.IdleKeepsEveryRegister := by
  intro s sel inbox
  have idle : fetch s = .idle := by simp [fetch, sel, inbox]
  rw [step, idle]

/-- Settles O11: H, PBUF and DIG are tables of 0, and STATUS is made of fields that are 0. -/
theorem resetRegisters : Obligations.ResetRegisters := by
  refine ⟨rfl, rfl, rfl, fun i hi => ?h, rfl, fun i hi => ?pbuf, rfl, fun i hi => ?dig, rfl, rfl, rfl, rfl⟩
  case h => exact (hReg_tab _ i).trans (if_pos hi)
  case pbuf => exact (tab_getD 128 _ i _).trans (if_pos hi)
  case dig => exact (tab_getD 64 _ i _).trans (if_pos hi)

end Sys2Proof.Machine
